-- ==== Sys2Proof/Word.lean ====
section
/-!
DEFINITION. The words the ports of `shuffle_mask_decoder` carry, and the two closed sets of names that
stand in them (the response status and the fault cause). Widths: 00_scope.md R8, 30_encoding.md R60.
-/

namespace Sys2Proof

/-- One 8-bit mask entry as the response bus carries it (`ENTRY_W` = 8, R8), and the width of `INFO` (R23). -/
abbrev Byte := BitVec 8

/-- The 64-bit command word of a request (R60). -/
abbrev Cmd := BitVec 64

/-- The 32-bit immediate of a command (`IMM_W` = 32, R8, R66). -/
abbrev Imm := BitVec 32

/-- One 64-bit entry of the table operand (`TBL_W` = 64, R8, R41). -/
abbrev TblEntry := BitVec 64

/-- The three answers a response can carry (R22, R84). Code 3 is never produced, so it has no name here (U12). -/
inductive Status where
  | ok
  | empty
  | fault
  deriving DecidableEq, Repr, Inhabited

/-- The fault causes of 60_exceptions.md R201, `none` being code 0, "the code `FAULT_CAUSE` holds when there is no
fault". Codes 9 to 15 are never produced, so they have no name here (U12). -/
inductive Cause where
  | none
  | illegalOp
  | reservedBits
  | badShape
  | shapePrecond
  | tblForm
  | tblLen
  | tblIndex
  | alignRange
  deriving DecidableEq, Repr, Inhabited

end Sys2Proof
end

