-- ==== Sys2Proof/Config.lean ====
section
/-!
DEFINITION. What a build of the block fixes (00_scope.md R8): the widest vector it admits and the sizes derived from
it, the latency `LAT` that the spec leaves OPEN, and the free values the spec leaves unspecified. The free values have
no body, so nothing in Lean can compute one or prove anything of one.
-/

namespace Sys2Proof

/-- The two builds R8 and U15 allow: `VMAX_BITS` = 256 (the default) and `VMAX_BITS` = 512. -/
inductive Build where
  | b256
  | b512
  deriving DecidableEq, Repr, Inhabited

namespace Config

/-- `VMAX_BITS` of a build (R8). -/
def vmaxBits : Build → Nat
  | .b256 => 256
  | .b512 => 512

/-- `MAX_OUT` = `VMAX_BITS / 8`, the number of entries of the response mask (R8). -/
def maxOut (b : Build) : Nat := vmaxBits b / 8

/-- `MAX_TBL`, the number of table entries a request carries (R8). -/
abbrev maxTbl : Nat := 32

/-- `VMAX_BITS` is "256 by default" (R8). -/
def defaultBuild : Build := .b256

/-- The mask bytes the spec leaves unspecified (R84, U1, and R31 for the whole array after a reset): the byte at
position `k` of the `n`-th time the block writes its response register. FREE VALUE, log entry 2. -/
opaque freeByte : (n k : Nat) → Byte

/-- `RSP.STATUS` after the reset that is the `n`-th write of the response register (R31, U2). FREE VALUE, log entry 2. -/
opaque freeStatus : (n : Nat) → Status

/-- `RSP.LEN` after such a reset (R31, U2). FREE VALUE, log entry 2. -/
opaque freeLen : (n : Nat) → BitVec 7

/-- `RSP.CAUSE` after such a reset (R31, U2). FREE VALUE, log entry 2. -/
opaque freeCause : (n : Nat) → Cause

/-- `RSP.INFO` after such a reset (R31, U2). FREE VALUE, log entry 2. -/
opaque freeInfo : (n : Nat) → Byte

/-- How many cycles `LAT` has beyond the one cycle R248 demands. FREE VALUE, log entry 8. -/
opaque latBeyondOne : Nat

/-- `LAT`, the cycles from acceptance to response: "at least one cycle", left OPEN (R8, R248). -/
def lat : Nat := latBeyondOne + 1

end Config

end Sys2Proof
end

