-- ==== Sys2Proof/Syntax.lean ====
section
/-!
DEFINITION. The fifteen operations of `shuffle_mask_decoder` (00_scope.md R2), one constructor of `Instr` per row of
spec/opcode_table.json, each with the operand fields its row names and no field its operation ignores (30_encoding.md
R69, R74 to R80).
-/

namespace Sys2Proof

/-- The total bit-widths the command field `VB` can name (R62). -/
inductive VecWidth where
  | v64
  | v128
  | v256
  | v512
  deriving DecidableEq, Repr

/-- The element bit-widths the command field `EB` can name (R63). -/
inductive EltWidth where
  | e8
  | e16
  | e32
  | e64
  deriving DecidableEq, Repr

/-- The operation select `OP`, by name (R68). -/
inductive Op where
  | insert
  | movhl
  | movlh
  | align
  | permi
  | shufp
  | permhw
  | permlw
  | unpckh
  | unpckl
  | perm2x128
  | bshufc
  | bshufr
  | blend
  | permq
  deriving DecidableEq, Repr

/-- The four families of R2. -/
inductive Family where
  | immediateDecode
  | interleave
  | byteTable
  | blendSelect
  deriving DecidableEq, Repr

/-- An operation with its operands. Two operands come with the request but not in the command word: the table (which
BSHUFC and BSHUFR read, R41) is on the request's table port, and the build's `VMAX_BITS` belongs to the block. -/
inductive Instr where
  /-- INSERT (R101): `ZMASK`, `COUNTD` and `COUNTS` of R74. -/
  | insert (zmask : BitVec 4) (countd counts : BitVec 2)
  /-- MOVHL (R102): the shape only. -/
  | movhl (vb : VecWidth) (eb : EltWidth)
  /-- MOVLH (R103): the shape only. -/
  | movlh (vb : VecWidth) (eb : EltWidth)
  /-- ALIGN (R104): the shape and the whole immediate as a count (R79). -/
  | align (vb : VecWidth) (eb : EltWidth) (imm : Imm)
  /-- PERMI (R105): the shape and the whole immediate as mixed-radix digits (R78). -/
  | permi (vb : VecWidth) (eb : EltWidth) (imm : Imm)
  /-- SHUFP (R106): as PERMI. -/
  | shufp (vb : VecWidth) (eb : EltWidth) (imm : Imm)
  /-- PERMHW (R107): the shape and the four selectors of R77. -/
  | permhw (vb : VecWidth) (eb : EltWidth) (sel0 sel1 sel2 sel3 : BitVec 2)
  /-- PERMLW (R108): the shape and the four selectors of R77. -/
  | permlw (vb : VecWidth) (eb : EltWidth) (sel0 sel1 sel2 sel3 : BitVec 2)
  /-- UNPCKH (R141): the shape only. -/
  | unpckh (vb : VecWidth) (eb : EltWidth)
  /-- UNPCKL (R142): the shape only. -/
  | unpckl (vb : VecWidth) (eb : EltWidth)
  /-- PERM2X128 (R109): the shape, the two selectors and the two zeroing bits of R75. -/
  | perm2x128 (vb : VecWidth) (eb : EltWidth) (sel0 : BitVec 2) (z0 : Bool) (sel1 : BitVec 2) (z1 : Bool)
  /-- BSHUFC (R152): what the constant's container reports, `TLEN`, `TVEC` and `TEBITS` (R67). -/
  | bshufc (tlen : BitVec 6) (tvec : Bool) (tebits : BitVec 8)
  /-- BSHUFR (R153): the length `TLEN` of the raw byte sequence (R67). -/
  | bshufr (tlen : BitVec 6)
  /-- BLEND (R170): the shape and one immediate bit per lane (R80). -/
  | blend (vb : VecWidth) (eb : EltWidth) (imm : Imm)
  /-- PERMQ (R110): the four source selectors of R76. -/
  | permq (src0 src1 src2 src3 : BitVec 2)
  deriving DecidableEq, Repr

/-- Which operation an instruction is. -/
def Instr.op : Instr → Op
  | .insert _ _ _ => .insert
  | .movhl _ _ => .movhl
  | .movlh _ _ => .movlh
  | .align _ _ _ => .align
  | .permi _ _ _ => .permi
  | .shufp _ _ _ => .shufp
  | .permhw _ _ _ _ _ _ => .permhw
  | .permlw _ _ _ _ _ _ => .permlw
  | .unpckh _ _ => .unpckh
  | .unpckl _ _ => .unpckl
  | .perm2x128 _ _ _ _ _ _ => .perm2x128
  | .bshufc _ _ _ => .bshufc
  | .bshufr _ => .bshufr
  | .blend _ _ _ => .blend
  | .permq _ _ _ _ => .permq

/-- The shape an instruction carries; the four operations that ignore `VB` and `EB` carry none (R61, R69). -/
def Instr.shape : Instr → Option (VecWidth × EltWidth)
  | .insert _ _ _ => none
  | .movhl vb eb => some (vb, eb)
  | .movlh vb eb => some (vb, eb)
  | .align vb eb _ => some (vb, eb)
  | .permi vb eb _ => some (vb, eb)
  | .shufp vb eb _ => some (vb, eb)
  | .permhw vb eb _ _ _ _ => some (vb, eb)
  | .permlw vb eb _ _ _ _ => some (vb, eb)
  | .unpckh vb eb => some (vb, eb)
  | .unpckl vb eb => some (vb, eb)
  | .perm2x128 vb eb _ _ _ _ => some (vb, eb)
  | .bshufc _ _ _ => none
  | .bshufr _ => none
  | .blend vb eb _ => some (vb, eb)
  | .permq _ _ _ _ => none

/-- The family of an operation (R2; MOVHL and MOVLH stand with the immediate decoders, C9). -/
def Op.family : Op → Family
  | .insert => .immediateDecode
  | .movhl => .immediateDecode
  | .movlh => .immediateDecode
  | .align => .immediateDecode
  | .permi => .immediateDecode
  | .shufp => .immediateDecode
  | .permhw => .immediateDecode
  | .permlw => .immediateDecode
  | .perm2x128 => .immediateDecode
  | .permq => .immediateDecode
  | .unpckh => .interleave
  | .unpckl => .interleave
  | .bshufc => .byteTable
  | .bshufr => .byteTable
  | .blend => .blendSelect

/-- Whether an operation reads the shape (the `VB`, `EB` column of R69). -/
def Op.readsShape : Op → Bool
  | .insert => false
  | .bshufc => false
  | .bshufr => false
  | .permq => false
  | .movhl => true
  | .movlh => true
  | .align => true
  | .permi => true
  | .shufp => true
  | .permhw => true
  | .permlw => true
  | .unpckh => true
  | .unpckl => true
  | .perm2x128 => true
  | .blend => true

end Sys2Proof
end

