-- ==== Sys2Proof/Decode.lean ====
section
/-!
DEFINITION. The command word (30_encoding.md R60): its fields, the decoder from a word to an instruction or a named
rejection (R68, R70, R71), and the encoder. Every 64-bit word is decoded; a word that is no command is rejected by
name, and the frame of Machine/Transactions.lean turns that rejection into the fault the spec gives it.
-/

namespace Sys2Proof

/-- Why a command word is no instruction. -/
inductive Reject where
  /-- `OP` is 0x00 or 0x10 to 0x1F (R71): the block takes the fault ILLEGAL_OP. -/
  | illegalOp
  /-- `OP` is legal and a reserved field is not 0 (R70): the block takes the fault RESERVED_BITS. -/
  | reservedBits
  deriving DecidableEq, Repr

/-! ## The fields of R60 -/

def cmdOp (c : Cmd) : BitVec 5 := c.extractLsb' 0 5
def cmdRsv0 (c : Cmd) : BitVec 3 := c.extractLsb' 5 3
def cmdVb (c : Cmd) : BitVec 2 := c.extractLsb' 8 2
def cmdEb (c : Cmd) : BitVec 2 := c.extractLsb' 10 2
def cmdRsv1 (c : Cmd) : BitVec 4 := c.extractLsb' 12 4
def cmdTlen (c : Cmd) : BitVec 6 := c.extractLsb' 16 6
def cmdTvec (c : Cmd) : Bool := c.getLsbD 22
def cmdRsv2 (c : Cmd) : BitVec 1 := c.extractLsb' 23 1
def cmdTebits (c : Cmd) : BitVec 8 := c.extractLsb' 24 8
def cmdImm (c : Cmd) : Imm := c.extractLsb' 32 32

/-- Field `[lo+1:lo]` of an immediate, the width of every selector of R74 to R77. -/
def immSel (imm : Imm) (lo : Nat) : BitVec 2 := imm.extractLsb' lo 2

/-! ## The codes of R62, R63 and R68 -/

/-- `VB` to a total width (R62). -/
def vecWidthOfCode (code : BitVec 2) : VecWidth :=
  match code.toNat with
  | 0 => .v64
  | 1 => .v128
  | 2 => .v256
  | _ => .v512

/-- A total width to `VB` (R62). -/
def vecWidthCode : VecWidth → BitVec 2
  | .v64 => 0
  | .v128 => 1
  | .v256 => 2
  | .v512 => 3

/-- `EB` to an element width (R63). -/
def eltWidthOfCode (code : BitVec 2) : EltWidth :=
  match code.toNat with
  | 0 => .e8
  | 1 => .e16
  | 2 => .e32
  | _ => .e64

/-- An element width to `EB` (R63). -/
def eltWidthCode : EltWidth → BitVec 2
  | .e8 => 0
  | .e16 => 1
  | .e32 => 2
  | .e64 => 3

/-- The opcode map of R68; the codes it leaves out are reserved (R71). -/
def opOfCode (code : BitVec 5) : Option Op :=
  match code.toNat with
  | 0x01 => some .insert
  | 0x02 => some .movhl
  | 0x03 => some .movlh
  | 0x04 => some .align
  | 0x05 => some .permi
  | 0x06 => some .shufp
  | 0x07 => some .permhw
  | 0x08 => some .permlw
  | 0x09 => some .unpckh
  | 0x0A => some .unpckl
  | 0x0B => some .perm2x128
  | 0x0C => some .bshufc
  | 0x0D => some .bshufr
  | 0x0E => some .blend
  | 0x0F => some .permq
  | _ => none

/-- The `OP` code of an operation (R68). -/
def opCode : Op → BitVec 5
  | .insert => 0x01
  | .movhl => 0x02
  | .movlh => 0x03
  | .align => 0x04
  | .permi => 0x05
  | .shufp => 0x06
  | .permhw => 0x07
  | .permlw => 0x08
  | .unpckh => 0x09
  | .unpckl => 0x0A
  | .perm2x128 => 0x0B
  | .bshufc => 0x0C
  | .bshufr => 0x0D
  | .blend => 0x0E
  | .permq => 0x0F

/-! ## Decoding -/

/-- The three reserved fields are 0 (R70). -/
def reservedClear (c : Cmd) : Bool := cmdRsv0 c == 0 && cmdRsv1 c == 0 && cmdRsv2 c == 0

/-- The operands of an operation, read from the fields R69 and R74 to R80 give it. -/
def instrOf (o : Op) (c : Cmd) : Instr :=
  let vb := vecWidthOfCode (cmdVb c)
  let eb := eltWidthOfCode (cmdEb c)
  let imm := cmdImm c
  match o with
  | .insert => .insert (imm.extractLsb' 0 4) (immSel imm 4) (immSel imm 6)
  | .movhl => .movhl vb eb
  | .movlh => .movlh vb eb
  | .align => .align vb eb imm
  | .permi => .permi vb eb imm
  | .shufp => .shufp vb eb imm
  | .permhw => .permhw vb eb (immSel imm 0) (immSel imm 2) (immSel imm 4) (immSel imm 6)
  | .permlw => .permlw vb eb (immSel imm 0) (immSel imm 2) (immSel imm 4) (immSel imm 6)
  | .unpckh => .unpckh vb eb
  | .unpckl => .unpckl vb eb
  | .perm2x128 => .perm2x128 vb eb (immSel imm 0) (imm.getLsbD 3) (immSel imm 4) (imm.getLsbD 7)
  | .bshufc => .bshufc (cmdTlen c) (cmdTvec c) (cmdTebits c)
  | .bshufr => .bshufr (cmdTlen c)
  | .blend => .blend vb eb imm
  | .permq => .permq (immSel imm 0) (immSel imm 2) (immSel imm 4) (immSel imm 6)

/-- The instruction a command word holds. `OP` is checked before the reserved fields (R91, R202). -/
def decode (c : Cmd) : Except Reject Instr :=
  match opOfCode (cmdOp c) with
  | none => .error .illegalOp
  | some o => if reservedClear c then .ok (instrOf o c) else .error .reservedBits

/-- The host's entry to the decoder: the command word whose low `nbits` bits are those of `w`, every bit above them
0. The command is one 64-bit word on the request bus (R43, R60), so it has no bytes to lay out. -/
def decodeTableWord (nbits w : Nat) : Option Instr :=
  match decode (BitVec.ofNat 64 (w % 2 ^ nbits)) with
  | .ok i => some i
  | .error _ => none

/-! ## Encoding -/

/-- A field at bit `lo` of a word of `w` bits. -/
def fieldAt (w lo : Nat) {n : Nat} (v : BitVec n) : BitVec w := v.setWidth w <<< lo

/-- The command word of the given fields, the reserved fields 0, assembled as R60 writes it. -/
def command (imm : Imm) (tebits : BitVec 8) (tvec : Bool) (tlen : BitVec 6) (eb vb : BitVec 2) (op : BitVec 5) : Cmd :=
  fieldAt 64 32 imm ||| fieldAt 64 24 tebits ||| fieldAt 64 22 (BitVec.ofBool tvec) ||| fieldAt 64 16 tlen |||
    fieldAt 64 10 eb ||| fieldAt 64 8 vb ||| fieldAt 64 0 op

/-- The command word of an operation that reads the shape and an immediate. -/
def shapeCommand (o : Op) (vb : VecWidth) (eb : EltWidth) (imm : Imm) : Cmd :=
  command imm 0 false 0 (eltWidthCode eb) (vecWidthCode vb) (opCode o)

/-- The immediate whose four low 2-bit fields are the given ones, first field lowest (R76, R77). -/
def immOfSels (s0 s1 s2 s3 : BitVec 2) : Imm :=
  fieldAt 32 6 s3 ||| fieldAt 32 4 s2 ||| fieldAt 32 2 s1 ||| fieldAt 32 0 s0

/-- The command word of an instruction, every field its operation ignores 0 (R60, R68, R69, R74 to R80). -/
def encode : Instr → Cmd
  | .insert zmask countd counts => command (fieldAt 32 6 counts ||| fieldAt 32 4 countd ||| fieldAt 32 0 zmask) 0
      false 0 0 0 (opCode .insert)
  | .movhl vb eb => shapeCommand .movhl vb eb 0
  | .movlh vb eb => shapeCommand .movlh vb eb 0
  | .align vb eb imm => shapeCommand .align vb eb imm
  | .permi vb eb imm => shapeCommand .permi vb eb imm
  | .shufp vb eb imm => shapeCommand .shufp vb eb imm
  | .permhw vb eb s0 s1 s2 s3 => shapeCommand .permhw vb eb (immOfSels s0 s1 s2 s3)
  | .permlw vb eb s0 s1 s2 s3 => shapeCommand .permlw vb eb (immOfSels s0 s1 s2 s3)
  | .unpckh vb eb => shapeCommand .unpckh vb eb 0
  | .unpckl vb eb => shapeCommand .unpckl vb eb 0
  | .perm2x128 vb eb sel0 z0 sel1 z1 =>
      shapeCommand .perm2x128 vb eb
        (fieldAt 32 7 (BitVec.ofBool z1) ||| fieldAt 32 4 sel1 ||| fieldAt 32 3 (BitVec.ofBool z0) ||| fieldAt 32 0 sel0)
  | .bshufc tlen tvec tebits => command 0 tebits tvec tlen 0 0 (opCode .bshufc)
  | .bshufr tlen => command 0 0 false tlen 0 0 (opCode .bshufr)
  | .blend vb eb imm => shapeCommand .blend vb eb imm
  | .permq s0 s1 s2 s3 => command (immOfSels s0 s1 s2 s3) 0 false 0 0 0 (opCode .permq)

end Sys2Proof
end

