-- ==== Sys2Proof/Machine/State.lean ====
section
/-!
DEFINITION. The state of the machine: the architectural record of 10_state.md R23, and beside it the model's own fields
for what stands outside the block (the build, the pins still to come, the waiting request, the caller's observation).
-/

namespace Sys2Proof.Machine

/-- A request as the caller presents it: the command word and the 32 table entries (20_memory.md R41, 30_encoding.md
R60). -/
structure Request where
  cmd : Cmd
  tbl : Vector TblEntry Config.maxTbl
  deriving DecidableEq, Repr

/-- The held response `RSP` of R23. `mask` holds `MAX_OUT` entries (an invariant, Safety.lean); those at `len` and above
are unspecified (R28). -/
structure Response where
  status : Status
  len : BitVec 7
  cause : Cause
  info : Byte
  mask : List Byte
  deriving DecidableEq, Repr

/-- What the caller and the platform drive at one step: the reset input `rst` (R240), the request on the request channel
(`req_valid` with `cmd` and `tbl`), and whether the caller takes a response (`rsp_ready`) (70_reset_and_hazards.md
R249). -/
structure Pins where
  rst : Bool
  req : Option Request
  rspReady : Bool
  deriving DecidableEq, Repr

/-- One event of a run as R29 and R99 let a caller see it: a request accepted, a response delivered with the request it
answers, a reset. -/
inductive Observation where
  | accepted (r : Request)
  | delivered (r : Request) (p : Response)
  | reset
  deriving DecidableEq, Repr

/-- The state. `halted` to `rsp` are the block's whole architectural state (R23); the rest is the model's own. -/
structure State where
  /-- `HALTED` (R24). -/
  halted : Bool
  /-- `FAULT_CAUSE`, by name; its 4-bit code is `causeCode` (R25). -/
  faultCause : Cause
  /-- `FAULT_INFO` (R25). -/
  faultInfo : Byte
  /-- `RSPV` (R26). -/
  rspv : Bool
  /-- `RSP` (R26, R28). -/
  rsp : Response
  /-- MODEL'S OWN. Which build the block is (R8): fixed, no step writes it (log entry 1). -/
  build : Build
  /-- MODEL'S OWN. The request last accepted: the one an operation reads its table from (R46) and, while `rspv`, the one
  the held response answers (R44) (log entry 3). -/
  current : Request
  /-- MODEL'S OWN. The request presented at the last step and not accepted, which "stays with the caller" (R90, R250)
  (log entry 3). -/
  waiting : Option Request
  /-- MODEL'S OWN. What the caller and the platform drive at the steps to come, next first (log entry 4). -/
  inputs : List Pins
  /-- MODEL'S OWN. What the run has shown, latest first (R29, R99) (log entry 3). -/
  history : List Observation
  /-- MODEL'S OWN. How many times the response register has been written: the argument of the free values (log entry
  2). -/
  writes : Nat
  deriving DecidableEq, Repr

/-- Why a step stops the model. A fault of the BLOCK is no such stop: it is a next state (60_exceptions.md R203). -/
inductive Fault where
  /-- Raised by `step` alone: the block is halted, its fault response has been taken, a request waits, and no pins are
  left to come, so no reset can. "A presented request waits for ever", and "a model treats a run that waits on a halted
  block as stuck, not finished" (R247, R99, U10). Safe: the hardware makes no step here either. -/
  | stuckHalted
  deriving DecidableEq, Repr

/-- Why a step has no meaning. -/
inductive Refusal where
  /-- Raised by `exec` for an instruction that has no meaning yet. No arm raises it in this model. Safe. -/
  | notModelled (mnemonic : String)
  /-- Raised by `step`: the caller changed or withdrew a request that was not accepted yet. "What the block takes when
  the caller breaks this is not specified, and a model refuses such a run" (R250, U11). Safe. -/
  | unstableRequest
  deriving DecidableEq, Repr

/-- The request of zeros: what `current` holds before any request is accepted (log entry 3). -/
def Request.zero : Request := ⟨0, Vector.replicate Config.maxTbl 0⟩

/-- What `RSP` holds at power-up, where R31 says "unspecified": every field 0 (log entry 5, DESIGN CHOICE; "not
observable while `RSPV` = 0"). -/
def Response.zero (b : Build) : Response :=
  { status := .ok, len := 0, cause := .none, info := 0, mask := List.replicate (Config.maxOut b) 0 }

/-- The block of the given build right after reset (R31), nothing presented and nothing to come. -/
def State.resetOf (b : Build) : State :=
  { halted := false, faultCause := .none, faultInfo := 0, rspv := false, rsp := Response.zero b,
    build := b, current := Request.zero, waiting := none, inputs := [], history := [], writes := 0 }

/-- The machine right after reset, in the default build (R8, R31). -/
def State.reset : State := State.resetOf Config.defaultBuild

end Sys2Proof.Machine
end

