-- ==== Sys2Proof/Machine/Operands.lean ====
section
/-!
DEFINITION. The operand forms of the operations: the shape and its lane geometry (30_encoding.md R61 to R65), the
immediate as digits and as bits (R78, R80), the byte-table entries (R81), mask entries (R82), and the outcome an
operation ends in (40_execution.md R91).
-/

namespace Sys2Proof.Machine

/-! ## Mask entries and outcomes -/

/-- One mask entry: the index of a source lane, or the zero sentinel (R82, R83: "a proper tagged variant per mask
entry"). -/
inductive Entry where
  | lane (index : Nat)
  | zero
  deriving DecidableEq, Repr

/-- How an operation ends: `finish OK(M)`, `finish EMPTY` or `raise Fault(cause, info)` (R12, R91). -/
inductive OpOutcome where
  | ok (mask : List Entry)
  | empty
  | fault (cause : Cause) (info : Byte)
  deriving DecidableEq, Repr

/-- `SENT`, the zero sentinel (R8, R82). -/
def sentinel : Byte := 0xFF

/-- The 8-bit encoding of a mask entry (R82). -/
def Entry.toByte : Entry → Byte
  | .lane i => BitVec.ofNat 8 i
  | .zero => sentinel

/-- What a consumer that "tests bit 7 alone" reads from an 8-bit entry (R82). -/
def Entry.ofByte (e : Byte) : Entry := if e.getLsbD 7 then .zero else .lane e.toNat

/-- The source a mask entry draws from and the lane of it, in a vector of `n` lanes: source 1 below `n`, source 2 from
`n` on; no source for the zero sentinel (R83). -/
def Entry.source (n : Nat) : Entry → Option (Nat × Nat)
  | .lane i => if i < n then some (1, i) else some (2, i - n)
  | .zero => none

/-- `for i in a .. b-1`: the positions a loop of the pseudocode runs through. -/
def positions (a b : Nat) : List Nat := List.range' a (b - a)

/-- The entries of lanes `a` to `b-1`, `bias` added to each. -/
def lanes (a b bias : Nat) : List Entry := (positions a b).map fun i => .lane (bias + i)

/-! ## The shape -/

/-- `TotalBits` (R62). -/
def totalBits : VecWidth → Nat
  | .v64 => 64
  | .v128 => 128
  | .v256 => 256
  | .v512 => 512

/-- `EltBits` (R63). -/
def eltBits : EltWidth → Nat
  | .e8 => 8
  | .e16 => 16
  | .e32 => 32
  | .e64 => 64

/-- What an operation that reads the shape has of it: `EltBits`, `N`, `NumLanes` and `LaneElts` (R63 to R65). -/
structure Geometry where
  elt : Nat
  n : Nat
  numLanes : Nat
  laneElts : Nat
  deriving DecidableEq, Repr

/-- The lane geometry of a shape (R64, R65, R91). -/
def geometry (vb : VecWidth) (eb : EltWidth) : Geometry :=
  let n := totalBits vb / eltBits eb
  let numLanes := max 1 (totalBits vb / 128)
  { elt := eltBits eb, n := n, numLanes := numLanes, laneElts := n / numLanes }

/-- The frame's shape check: BAD_SHAPE where the width exceeds `VMAX_BITS`, else the operation goes on with the
geometry (R62, R91). -/
def readShape (b : Build) (vb : VecWidth) (eb : EltWidth) (rule : Geometry → OpOutcome) : OpOutcome :=
  if Config.vmaxBits b < totalBits vb then .fault .badShape 0 else rule (geometry vb eb)

/-- A precondition of an operation's rule: `if not c: raise Fault(cause, 0)`. -/
def require (c : Bool) (cause : Cause) (rest : OpOutcome) : OpOutcome := if c then rest else .fault cause 0

/-- A loop that appends one entry for each position, in order, and faults at the first position that yields none, the
position in `INFO` (R104, R151). The entries appended before are discarded (R92). -/
def collect (cause : Cause) (entry : Nat → Option Entry) : List Nat → List Entry → OpOutcome
  | [], done => .ok done
  | p :: rest, done =>
    match entry p with
    | some e => collect cause entry rest (done ++ [e])
    | none => .fault cause (BitVec.ofNat 8 p)

/-! ## The immediate -/

/-- Draining the working immediate in base `base` (R78): the next `k` digits, and what is left of it. -/
def drain (base : Nat) : Nat → Nat → List Nat × Nat
  | 0, w => ([], w)
  | k + 1, w =>
    let (digits, left) := drain base k (w / base)
    (w % base :: digits, left)

/-- The working immediate at the start of a lane group: reloaded when the lane width is 4, else what the group before
left (R78, R105). -/
def reload (laneElts : Nat) (imm : Imm) (w : Nat) : Nat := if laneElts = 4 then imm.toNat else w

/-! ## The table -/

/-- `TBL[i]` of a request's table; no rule reads an entry that is not there (R41, R150). -/
def tblEntry (tbl : Vector TblEntry Config.maxTbl) (i : Nat) : TblEntry := tbl.toList.getD i 0

/-- Bits 7:0 of a table entry, the only ones an operation reads (R81). -/
def tblByte (tbl : Vector TblEntry Config.maxTbl) (i : Nat) : Byte := (tblEntry tbl i).extractLsb' 0 8

end Sys2Proof.Machine
end

