-- ==== Sys2Proof/Machine/Flags.lean ====
section
/-!
DEFINITION. The status the block shows: the codes of STATUS and CAUSE, the response header `RSPH` (30_encoding.md R84),
the status view `STS` (10_state.md R27), and the flat buses (20_memory.md R43). The block has no flag in the processor
sense (R22).
-/

namespace Sys2Proof.Machine

/-- The 2-bit code of `STATUS` (R84). -/
def statusCode : Status → BitVec 2
  | .ok => 0
  | .empty => 1
  | .fault => 2

/-- The 4-bit code of a fault cause (R201). -/
def causeCode : Cause → BitVec 4
  | .none => 0
  | .illegalOp => 1
  | .reservedBits => 2
  | .badShape => 3
  | .shapePrecond => 4
  | .tblForm => 5
  | .tblLen => 6
  | .tblIndex => 7
  | .alignRange => 8

/-- The 32-bit response header `RSPH` (R84): STATUS 1:0, LEN 14:8, CAUSE 19:16, INFO 31:24, the rest 0. -/
def rsph (p : Response) : BitVec 32 :=
  fieldAt 32 24 p.info ||| fieldAt 32 16 (causeCode p.cause) ||| fieldAt 32 8 p.len ||| fieldAt 32 0 (statusCode p.status)

/-- The 16-bit status view `STS` (R27): HALTED 0, BUSY 1, CAUSE 7:4, INFO 15:8, bits 3:2 read 0. -/
def sts (s : State) : BitVec 16 :=
  fieldAt 16 8 s.faultInfo ||| fieldAt 16 4 (causeCode s.faultCause) ||| fieldAt 16 1 (BitVec.ofBool s.rspv) |||
    fieldAt 16 0 (BitVec.ofBool s.halted)

/-- Entries of `w` bits packed on a flat bus, entry `k` in the bits from `w * k` up: the number the bus carries (R43). -/
def packEntries (w : Nat) : List (BitVec w) → Nat
  | [] => 0
  | e :: rest => e.toNat + 2 ^ w * packEntries w rest

/-- `MASKBUS`, 8 bits for each of the `MAX_OUT` entries (R43, R84, R249). -/
def maskBus (b : Build) (p : Response) : BitVec (8 * Config.maxOut b) := BitVec.ofNat _ (packEntries 8 p.mask)

/-- `TBLBUS`, 64 bits for each of the 32 table entries (R43, R249). -/
def tblBus (r : Request) : BitVec 2048 := BitVec.ofNat _ (packEntries 64 r.tbl.toList)

end Sys2Proof.Machine
end

