-- ==== Sys2Proof/Machine/Ops.lean ====
section
/-!
DEFINITION. The operations over the state that the steps and the meanings share: writing the held response, taking a
fault, and leaving the halted state, which only reset does (60_exceptions.md R203, R206); sampling the pins, latching a
request, delivering a response (40_execution.md R90, R93).
-/

namespace Sys2Proof.Machine

/-- The mask array for a mask `M`: the entries of `M`, and above them the unspecified ones, drawn as the `n`-th free
array (R84, R92, U1). -/
def maskArray (b : Build) (n : Nat) (M : List Entry) : List Byte :=
  M.map Entry.toByte ++ (positions M.length (Config.maxOut b)).map (Config.freeByte n)

/-- The row OK(M) of R92. -/
def okResponse (b : Build) (n : Nat) (M : List Entry) : Response :=
  { status := .ok, len := BitVec.ofNat 7 M.length, cause := .none, info := 0, mask := maskArray b n M }

/-- The row EMPTY of R92. -/
def emptyResponse (b : Build) (n : Nat) : Response :=
  { status := .empty, len := 0, cause := .none, info := 0, mask := maskArray b n [] }

/-- The row Fault(c, x) of R92. -/
def faultResponse (b : Build) (n : Nat) (c : Cause) (x : Byte) : Response :=
  { status := .fault, len := 0, cause := c, info := x, mask := maskArray b n [] }

/-- Accept's write of the response register: `RSP <- p`, `RSPV <- 1` (R26, R90). -/
def State.hold (s : State) (p : Response) : State := { s with rsp := p, rspv := true, writes := s.writes + 1 }

/-- TAKING A FAULT (R203), the block's only exception: the FAULT response is held, `HALTED` is set, and the cause and
the information word are recorded. Nothing else is saved, for there is no program counter and no handler. -/
def State.enterFault (s : State) (c : Cause) (x : Byte) : State :=
  { s.hold (faultResponse s.build s.writes c x) with halted := true, faultCause := c, faultInfo := x }

/-- The response register a reset leaves, every field unspecified (R31, R32, U2): the `n`-th free one. -/
def freeResponse (b : Build) (n : Nat) : Response :=
  { status := Config.freeStatus n, len := Config.freeLen n, cause := Config.freeCause n, info := Config.freeInfo n,
    mask := (positions 0 (Config.maxOut b)).map (Config.freeByte n) }

/-- RESET (R31, R32, R240, R241), the only way out of the halted state (R206): the record of R23 at its reset values, a
held response lost. -/
def State.resetBlock (s : State) : State :=
  { s with
    halted := false, faultCause := .none, faultInfo := 0, rspv := false,
    rsp := freeResponse s.build s.writes, writes := s.writes + 1, history := .reset :: s.history }

/-- The outcome of an operation becomes the held response, and a fault is taken (R90, R92, R203). -/
def State.respond (s : State) : OpOutcome → State
  | .ok M => s.hold (okResponse s.build s.writes M)
  | .empty => s.hold (emptyResponse s.build s.writes)
  | .fault c x => s.enterFault c x

/-- The end of every operation: it always completes, with a response (R98). -/
def finish (o : OpOutcome) (s : State) : Host.Outcome State Fault Refusal := .next (s.respond o)

/-- One step's pins are used up; the request they present waits, unless the step accepts it (R90, R250). -/
def State.sample (s : State) (p : Pins) : State := { s with inputs := s.inputs.tail, waiting := p.req }

/-- The block takes a request whole, command and table (R46, R90). -/
def State.latch (s : State) (r : Request) : State :=
  { s with current := r, waiting := none, history := .accepted r :: s.history }

/-- Deliver (R93): the caller has the response, and `RSPV` is cleared; nothing else of the record changes. -/
def State.deliver (s : State) : State :=
  { s with rspv := false, history := .delivered s.current s.rsp :: s.history }

/-- Everything that must be so for the next step to accept a request of command `c` and a table of zeros: pins that
present it, no response held, no halt, no other request waiting. -/
def State.present (s : State) (c : Cmd) : State :=
  { s with
    halted := false, faultCause := .none, faultInfo := 0, rspv := false, waiting := none,
    inputs := { rst := false, req := some { cmd := c, tbl := Request.zero.tbl }, rspReady := false } :: s.inputs }

end Sys2Proof.Machine
end

