-- ==== Sys2Proof/Machine/Blend.lean ====
section
/-!
DEFINITION. The blend-select-decode family (44_blend.md R170).
-/

namespace Sys2Proof.Machine

/-- The entry of lane `i`: source 2 where bit `i` of the immediate is 1, else source 1; a bit at or above 32 reads 0
(R9, R80). -/
def blendEntry (n : Nat) (imm : Imm) (i : Nat) : Entry := if imm.getLsbD i then .lane (n + i) else .lane i

def blendOutcome (b : Build) (vb : VecWidth) (eb : EltWidth) (imm : Imm) : OpOutcome :=
  readShape b vb eb fun g => .ok ((positions 0 g.n).map (blendEntry g.n imm))

/-- BLEND (R170). -/
def execBlend (vb : VecWidth) (eb : EltWidth) (imm : Imm) (s : State) : Host.Outcome State Fault Refusal :=
  finish (blendOutcome s.build vb eb imm) s

end Sys2Proof.Machine
end

