-- ==== Sys2Proof/Machine/ByteTable.lean ====
section
/-!
DEFINITION. The table-driven byte-permute family (43_byte_table.md R150 to R153). The table is the one the request
carried, sampled whole when it was accepted (20_memory.md R41, R46).
-/

namespace Sys2Proof.Machine

/-- The table lengths both operations take (R150). -/
def tableLenDomain (tlen : BitVec 6) : Bool := tlen.toNat == 16 || tlen.toNat == 32

/-- The entry decoder at position `i` (R151): the zero sentinel when bit 7 of the byte is set, else the index in the
position's own 16-byte half, and none where the index would leave that half (C5). -/
def byteEntry (tbl : Vector TblEntry Config.maxTbl) (i : Nat) : Option Entry :=
  let v := tblByte tbl i
  let idx := (v.extractLsb' 0 7).toNat
  if v.getLsbD 7 then some .zero
  else
    let base := if i < 16 then 0 else 16
    if 16 ≤ idx then none else some (.lane (base + idx))

/-- `BYTE_DECODE` (R151). -/
def byteDecode (tlen : BitVec 6) (tbl : Vector TblEntry Config.maxTbl) : OpOutcome :=
  collect .tblIndex (byteEntry tbl) (positions 0 tlen.toNat) []

/-- The length check and the decoder, which both forms share (R150, R151). -/
def rawTable (tlen : BitVec 6) (tbl : Vector TblEntry Config.maxTbl) : OpOutcome :=
  require (tableLenDomain tlen) .tblLen (byteDecode tlen tbl)

def bshufcOutcome (tlen : BitVec 6) (tvec : Bool) (tebits : BitVec 8) (tbl : Vector TblEntry Config.maxTbl) : OpOutcome :=
  require (tvec && tebits.toNat == 8) .tblForm (rawTable tlen tbl)

/-- BSHUFC (R152): the form check, then the length, then the entries. -/
def execBshufc (tlen : BitVec 6) (tvec : Bool) (tebits : BitVec 8) (s : State) : Host.Outcome State Fault Refusal :=
  finish (bshufcOutcome tlen tvec tebits s.current.tbl) s

def bshufrOutcome (tlen : BitVec 6) (tbl : Vector TblEntry Config.maxTbl) : OpOutcome := rawTable tlen tbl

/-- BSHUFR (R153): the length, then the entries. -/
def execBshufr (tlen : BitVec 6) (s : State) : Host.Outcome State Fault Refusal :=
  finish (bshufrOutcome tlen s.current.tbl) s

end Sys2Proof.Machine
end

