-- ==== Sys2Proof/Machine/Immediate.lean ====
section
/-!
DEFINITION. The immediate-decode family (41_immediate_decode.md R101 to R110): for each operation its outcome, written
from the rule's pseudocode, and its meaning.
-/

namespace Sys2Proof.Machine

/-! ## INSERT (R101) -/

/-- The identity on four lanes, lane `COUNTD` replaced by lane `COUNTS` of source 2, and the zero mask applied after. -/
def insertMask (zmask : BitVec 4) (countd counts : BitVec 2) : List Entry :=
  (positions 0 4).foldl (fun M k => if zmask.getLsbD k then M.set k .zero else M)
    ((lanes 0 4 0).set countd.toNat (.lane (4 + counts.toNat)))

def insertOutcome (zmask : BitVec 4) (countd counts : BitVec 2) : OpOutcome := .ok (insertMask zmask countd counts)

/-- INSERT (R101). -/
def execInsert (zmask : BitVec 4) (countd counts : BitVec 2) (s : State) : Host.Outcome State Fault Refusal :=
  finish (insertOutcome zmask countd counts) s

/-! ## MOVHL and MOVLH (R102, R103) -/

/-- The domain of both moves: one lane group, an even element count. -/
def moveDomain (g : Geometry) : Bool := g.numLanes == 1 && g.n % 2 == 0

def movhlOutcome (b : Build) (vb : VecWidth) (eb : EltWidth) : OpOutcome :=
  readShape b vb eb fun g =>
    require (moveDomain g) .shapePrecond (.ok (lanes (g.n / 2) g.n g.n ++ lanes (g.n / 2) g.n 0))

/-- MOVHL (R102): the back half of source 2, then the back half of source 1. -/
def execMovhl (vb : VecWidth) (eb : EltWidth) (s : State) : Host.Outcome State Fault Refusal :=
  finish (movhlOutcome s.build vb eb) s

def movlhOutcome (b : Build) (vb : VecWidth) (eb : EltWidth) : OpOutcome :=
  readShape b vb eb fun g =>
    require (moveDomain g) .shapePrecond (.ok (lanes 0 (g.n / 2) 0 ++ lanes 0 (g.n / 2) g.n))

/-- MOVLH (R103): the front half of source 1, then the front half of source 2. -/
def execMovlh (vb : VecWidth) (eb : EltWidth) (s : State) : Host.Outcome State Fault Refusal :=
  finish (movlhOutcome s.build vb eb) s

/-! ## ALIGN (R104) -/

/-- The index at mask position `p`, element `p mod LaneElts` of the lane group with base `l`, shifted by `shift`
elements; none where it reaches `2N`. "Exceeds the lane width" is `>=` (D15). -/
def alignEntry (g : Geometry) (shift p : Nat) : Option Entry :=
  let i := p % g.laneElts
  let l := p / g.laneElts * g.laneElts
  let b := i + shift
  let b := if g.laneElts ≤ b then b + g.n - g.laneElts else b
  let e := b + l
  if 2 * g.n ≤ e then none else some (.lane e)

def alignOutcome (b : Build) (vb : VecWidth) (eb : EltWidth) (imm : Imm) : OpOutcome :=
  readShape b vb eb fun g => collect .alignRange (alignEntry g imm.toNat) (positions 0 g.n) []

/-- ALIGN (R104): the shift is `IMM` elements (D14), unmasked (R79). -/
def execAlign (vb : VecWidth) (eb : EltWidth) (imm : Imm) (s : State) : Host.Outcome State Fault Refusal :=
  finish (alignOutcome s.build vb eb imm) s

/-! ## PERMI and SHUFP (R105, R106) -/

/-- The domain of both: 2, 4 or 8 elements in a lane group. -/
def digitDomain (g : Geometry) : Bool := g.laneElts == 2 || g.laneElts == 4 || g.laneElts == 8

/-- The lane groups from group `k` on (`left` of them), the working immediate drained from group to group: the digits of
each group, made entries by `picks`, which is given the group's base. -/
def drainGroups (laneElts : Nat) (imm : Imm) (picks : Nat → List Nat → List Entry) : Nat → Nat → Nat → List Entry
  | 0, _, _ => []
  | left + 1, k, w =>
    let (digits, rest) := drain laneElts laneElts (reload laneElts imm w)
    picks (k * laneElts) digits ++ drainGroups laneElts imm picks left (k + 1) rest

/-- PERMI's picks: the group's base plus each digit (D17). -/
def permiPicks (l : Nat) (digits : List Nat) : List Entry := digits.map fun d => .lane (l + d)

def permiOutcome (b : Build) (vb : VecWidth) (eb : EltWidth) (imm : Imm) : OpOutcome :=
  readShape b vb eb fun g =>
    require (digitDomain g) .shapePrecond (.ok (drainGroups g.laneElts imm permiPicks g.numLanes 0 imm.toNat))

/-- PERMI (R105). -/
def execPermi (vb : VecWidth) (eb : EltWidth) (imm : Imm) (s : State) : Host.Outcome State Fault Refusal :=
  finish (permiOutcome s.build vb eb imm) s

/-- SHUFP's picks: the first half of the digits pick from source 1, the second half from source 2 (D17). -/
def shufpPicks (n half l : Nat) (digits : List Nat) : List Entry :=
  (digits.take half).map (fun d => .lane (l + 0 + d)) ++ (digits.drop half).map (fun d => .lane (l + n + d))

def shufpOutcome (b : Build) (vb : VecWidth) (eb : EltWidth) (imm : Imm) : OpOutcome :=
  readShape b vb eb fun g =>
    require (digitDomain g) .shapePrecond
      (.ok (drainGroups g.laneElts imm (shufpPicks g.n (g.laneElts / 2)) g.numLanes 0 imm.toNat))

/-- SHUFP (R106). -/
def execShufp (vb : VecWidth) (eb : EltWidth) (imm : Imm) (s : State) : Host.Outcome State Fault Refusal :=
  finish (shufpOutcome s.build vb eb imm) s

/-! ## PERMHW and PERMLW (R107, R108) -/

/-- The domain of both: 16-bit elements in whole groups of 8. -/
def wordDomain (g : Geometry) : Bool := g.elt == 16 && g.n % 8 == 0

/-- The four entries the selectors pick from the four lanes at `base`: `base + (W & 3)`, `W` shifted right by 2 after
each (R77). -/
def wordPicks (base : Nat) (sels : List (BitVec 2)) : List Entry := sels.map fun sel => .lane (base + sel.toNat)

def permhwOutcome (b : Build) (vb : VecWidth) (eb : EltWidth) (sel0 sel1 sel2 sel3 : BitVec 2) : OpOutcome :=
  readShape b vb eb fun g =>
    require (wordDomain g) .shapePrecond
      (.ok ((positions 0 (g.n / 8)).flatMap fun q => lanes 0 4 (8 * q) ++ wordPicks (8 * q + 4) [sel0, sel1, sel2, sel3]))

/-- PERMHW (R107): the low four of every 8 copied, the high four picked from the high four (D18). -/
def execPermhw (vb : VecWidth) (eb : EltWidth) (sel0 sel1 sel2 sel3 : BitVec 2) (s : State) :
    Host.Outcome State Fault Refusal :=
  finish (permhwOutcome s.build vb eb sel0 sel1 sel2 sel3) s

def permlwOutcome (b : Build) (vb : VecWidth) (eb : EltWidth) (sel0 sel1 sel2 sel3 : BitVec 2) : OpOutcome :=
  readShape b vb eb fun g =>
    require (wordDomain g) .shapePrecond
      (.ok ((positions 0 (g.n / 8)).flatMap fun q => wordPicks (8 * q) [sel0, sel1, sel2, sel3] ++ lanes 4 8 (8 * q)))

/-- PERMLW (R108): the low four of every 8 picked from the low four, the high four copied (D18). -/
def execPermlw (vb : VecWidth) (eb : EltWidth) (sel0 sel1 sel2 sel3 : BitVec 2) (s : State) :
    Host.Outcome State Fault Refusal :=
  finish (permlwOutcome s.build vb eb sel0 sel1 sel2 sel3) s

/-! ## PERM2X128 (R109) -/

def perm2x128Outcome (b : Build) (vb : VecWidth) (eb : EltWidth) (sel0 : BitVec 2) (z0 : Bool) (sel1 : BitVec 2)
    (z1 : Bool) : OpOutcome :=
  readShape b vb eb fun g =>
    if z0 || z1 then .empty
    else
      require (g.numLanes == 2) .shapePrecond
        (.ok ([sel0, sel1].flatMap fun sel => lanes 0 (g.n / 2) (sel.toNat * (g.n / 2))))

/-- PERM2X128 (R109): EMPTY with a zeroing bit set, tested before the shape (D21); else each half copies a quarter. -/
def execPerm2x128 (vb : VecWidth) (eb : EltWidth) (sel0 : BitVec 2) (z0 : Bool) (sel1 : BitVec 2) (z1 : Bool)
    (s : State) : Host.Outcome State Fault Refusal :=
  finish (perm2x128Outcome s.build vb eb sel0 z0 sel1 z1) s

/-! ## PERMQ (R110) -/

def permqOutcome (src0 src1 src2 src3 : BitVec 2) : OpOutcome := .ok (wordPicks 0 [src0, src1, src2, src3])

/-- PERMQ (R110). -/
def execPermq (src0 src1 src2 src3 : BitVec 2) (s : State) : Host.Outcome State Fault Refusal :=
  finish (permqOutcome src0 src1 src2 src3) s

end Sys2Proof.Machine
end

