-- ==== Sys2Proof/Machine/Interleave.lean ====
section
/-!
DEFINITION. The interleave-pattern-gen family (42_interleave.md R140 to R142).
-/

namespace Sys2Proof.Machine

/-- The domain of both operations: at least 2 elements in a lane group (R140). -/
def pairDomain (g : Geometry) : Bool := 2 ≤ g.laneElts

/-- Positions `a` to `b-1` of source 1, each followed by the same position of source 2. -/
def interleave (n a b : Nat) : List Entry := (positions a b).flatMap fun i => [.lane i, .lane (i + n)]

def unpckhOutcome (b : Build) (vb : VecWidth) (eb : EltWidth) : OpOutcome :=
  readShape b vb eb fun g =>
    require (pairDomain g) .shapePrecond
      (.ok ((positions 0 g.numLanes).flatMap fun k =>
        let l := k * g.laneElts
        interleave g.n (l + g.laneElts / 2) (l + g.laneElts)))

/-- UNPCKH (R141): the upper halves of each lane group. -/
def execUnpckh (vb : VecWidth) (eb : EltWidth) (s : State) : Host.Outcome State Fault Refusal :=
  finish (unpckhOutcome s.build vb eb) s

def unpcklOutcome (b : Build) (vb : VecWidth) (eb : EltWidth) : OpOutcome :=
  readShape b vb eb fun g =>
    require (pairDomain g) .shapePrecond
      (.ok ((positions 0 g.numLanes).flatMap fun k =>
        let l := k * g.laneElts
        interleave g.n l (l + g.laneElts / 2)))

/-- UNPCKL (R142): the lower halves of each lane group. -/
def execUnpckl (vb : VecWidth) (eb : EltWidth) (s : State) : Host.Outcome State Fault Refusal :=
  finish (unpcklOutcome s.build vb eb) s

end Sys2Proof.Machine
end

