-- ==== Sys2Proof/Machine/Dispatch.lean ====
section
/-!
DEFINITION. One arm per operation: which meaning runs it (30_encoding.md R68). `exec` is the part of an Accept step that
40_execution.md R91 calls the rule of `CMD.OP`, with the response it ends in.
-/

namespace Sys2Proof.Machine

def exec (i : Instr) (s : State) : Host.Outcome State Fault Refusal :=
  match i with
  | .insert zmask countd counts => Sys2Proof.Machine.execInsert zmask countd counts s
  | .movhl vb eb => Sys2Proof.Machine.execMovhl vb eb s
  | .movlh vb eb => Sys2Proof.Machine.execMovlh vb eb s
  | .align vb eb imm => Sys2Proof.Machine.execAlign vb eb imm s
  | .permi vb eb imm => Sys2Proof.Machine.execPermi vb eb imm s
  | .shufp vb eb imm => Sys2Proof.Machine.execShufp vb eb imm s
  | .permhw vb eb sel0 sel1 sel2 sel3 => Sys2Proof.Machine.execPermhw vb eb sel0 sel1 sel2 sel3 s
  | .permlw vb eb sel0 sel1 sel2 sel3 => Sys2Proof.Machine.execPermlw vb eb sel0 sel1 sel2 sel3 s
  | .unpckh vb eb => Sys2Proof.Machine.execUnpckh vb eb s
  | .unpckl vb eb => Sys2Proof.Machine.execUnpckl vb eb s
  | .perm2x128 vb eb sel0 z0 sel1 z1 => Sys2Proof.Machine.execPerm2x128 vb eb sel0 z0 sel1 z1 s
  | .bshufc tlen tvec tebits => Sys2Proof.Machine.execBshufc tlen tvec tebits s
  | .bshufr tlen => Sys2Proof.Machine.execBshufr tlen s
  | .blend vb eb imm => Sys2Proof.Machine.execBlend vb eb imm s
  | .permq src0 src1 src2 src3 => Sys2Proof.Machine.execPermq src0 src1 src2 src3 s

end Sys2Proof.Machine
end

