-- ==== Sys2Proof/Machine/Transactions.lean ====
section
/-!
DEFINITION. The execution frame (40_execution.md R90 to R93): what the block computes from a request, when Accept,
Deliver and Reset are enabled, and what one step does with the pins it is given (00_scope.md R7).
-/

namespace Sys2Proof.Machine

/-- The fault a rejected command word takes (R70, R71, R201). -/
def rejectCause : Reject → Cause
  | .illegalOp => .illegalOp
  | .reservedBits => .reservedBits

/-- The outcome of an instruction, as a function of the build, the request's table and the operands alone (R96). -/
def outcome (b : Build) (tbl : Vector TblEntry Config.maxTbl) : Instr → OpOutcome
  | .insert zmask countd counts => insertOutcome zmask countd counts
  | .movhl vb eb => movhlOutcome b vb eb
  | .movlh vb eb => movlhOutcome b vb eb
  | .align vb eb imm => alignOutcome b vb eb imm
  | .permi vb eb imm => permiOutcome b vb eb imm
  | .shufp vb eb imm => shufpOutcome b vb eb imm
  | .permhw vb eb sel0 sel1 sel2 sel3 => permhwOutcome b vb eb sel0 sel1 sel2 sel3
  | .permlw vb eb sel0 sel1 sel2 sel3 => permlwOutcome b vb eb sel0 sel1 sel2 sel3
  | .unpckh vb eb => unpckhOutcome b vb eb
  | .unpckl vb eb => unpcklOutcome b vb eb
  | .perm2x128 vb eb sel0 z0 sel1 z1 => perm2x128Outcome b vb eb sel0 z0 sel1 z1
  | .bshufc tlen tvec tebits => bshufcOutcome tlen tvec tebits tbl
  | .bshufr tlen => bshufrOutcome tlen tbl
  | .blend vb eb imm => blendOutcome b vb eb imm
  | .permq src0 src1 src2 src3 => permqOutcome src0 src1 src2 src3

/-- `Decode(CMD, TBL)` of R91: what the block computes from a request. -/
def requestOutcome (b : Build) (r : Request) : OpOutcome :=
  match decode r.cmd with
  | .ok i => outcome b r.tbl i
  | .error e => .fault (rejectCause e) 0

/-- `req_ready` of R249: `not rst and HALTED = 0 and RSPV = 0`. -/
def State.reqReady (s : State) (rst : Bool) : Bool := !rst && !s.halted && !s.rspv

/-- A response is offered (R93, R240): reset is not asserted and `RSPV` = 1. How long after acceptance the offer comes is
Machine/Clocked.lean's. -/
def State.rspOffered (s : State) (rst : Bool) : Bool := !rst && s.rspv

/-- The caller keeps a request that was not accepted as it was (R250). -/
def keepsRequest (waiting req : Option Request) : Bool :=
  match waiting with
  | none => true
  | some r => req == some r

/-- Accept (R90) once it is enabled: the request is latched, its command decoded (R91), and the operation's rule or the
frame's fault gives the held response (R92, R203). -/
def State.accept (s : State) (r : Request) : Host.Outcome State Fault Refusal :=
  match decode r.cmd with
  | .ok i => exec i (s.latch r)
  | .error e => finish (.fault (rejectCause e) 0) (s.latch r)

/-- A request waits on a halted block, no response is left to take, and no pins are left that could assert reset (R247,
R99). -/
def State.waitsForEver (s : State) (p : Pins) : Bool :=
  s.halted && !s.rspv && p.req.isSome && s.inputs.isEmpty

/-- What the block does with one step's pins: a request changed while it waited is refused (R250); else Reset while `rst`
is asserted (R240), else Deliver when a response is held and taken (R93), else Accept when the request channel is ready
and a request presented (R90), else nothing: a request presented waits. Accept and Deliver are never enabled together
(`RSPV`), so the order of their tests decides nothing. -/
def State.transaction (s : State) (p : Pins) : Host.Outcome State Fault Refusal :=
  if !keepsRequest s.waiting p.req then .refused .unstableRequest
  else if p.rst then .next (s.sample p).resetBlock
  else if s.rspOffered p.rst && p.rspReady then .next (s.sample p).deliver
  else if s.waitsForEver p then .fault .stuckHalted
  else
    match p.req with
    | some r => if s.reqReady p.rst then (s.sample p).accept r else .next (s.sample p)
    | none => .next (s.sample p)

/-- The pins of the next step. When none are left to come, the caller holds the request it has waiting and takes nothing,
and reset is not asserted (log entry 4). -/
def State.pins (s : State) : Pins :=
  match s.inputs with
  | p :: _ => p
  | [] => { rst := false, req := s.waiting, rspReady := false }

end Sys2Proof.Machine
end

