-- ==== Sys2Proof/Machine/Step.lean ====
section
/-!
DEFINITION. One step of the machine (00_scope.md R7), and the state in which a given command word is the next one to run.
-/

namespace Sys2Proof.Machine

/-- One step: the transaction the next pins enable. -/
def step (s : State) : Host.Outcome State Fault Refusal := s.transaction s.pins

/-- The state in which the very next step accepts the command word whose low `nbits` bits are those of `w` and whose
other bits are 0: the caller presents it, with a table of zeros (log entry 4). -/
def State.withFetchWord (s : State) (nbits w : Nat) : State := s.present (BitVec.ofNat 64 (w % 2 ^ nbits))

end Sys2Proof.Machine
end

