-- ==== Sys2Proof/Machine/Assembler.lean ====
section
/-!
DEFINITION. The spec's notation for a request (30_encoding.md R85, R86): a mnemonic, a shape suffix exactly where the
operation reads the shape, and named operands, each 0 when it is not written. The characters of a line are not modelled
(00_scope.md R5 leaves assembly text out): a line is given as its parts.
-/

namespace Sys2Proof.Machine

/-- The parts of one line of R85. -/
structure AsmLine where
  op : Op
  shape : Option (VecWidth × EltWidth) := none
  imm : Imm := 0
  tlen : BitVec 6 := 0
  tvec : Bool := false
  tebits : BitVec 8 := 0
  tbl : List Nat := []
  deriving DecidableEq, Repr

/-- "a syntax error of the assembler, not a command" (R85). -/
inductive AsmError where
  | unexpectedShape
  | missingShape
  deriving DecidableEq, Repr

/-- The table whose first entries are the given ones, "so is every table entry not written" 0 (R85). -/
def tableOf (entries : List Nat) : Vector TblEntry Config.maxTbl :=
  ⟨((List.range Config.maxTbl).map fun i => BitVec.ofNat 64 (entries.getD i 0)).toArray, by simp⟩

/-- The request of a line: one command (R86). -/
def assemble (a : AsmLine) : Except AsmError Request :=
  match a.op.readsShape, a.shape with
  | true, some (vb, eb) =>
    .ok { cmd := command a.imm a.tebits a.tvec a.tlen (eltWidthCode eb) (vecWidthCode vb) (opCode a.op), tbl := tableOf a.tbl }
  | false, none =>
    .ok { cmd := command a.imm a.tebits a.tvec a.tlen 0 0 (opCode a.op), tbl := tableOf a.tbl }
  | true, none => .error .missingShape
  | false, some _ => .error .unexpectedShape

end Sys2Proof.Machine
end

