-- ==== Sys2Proof/Machine/Clocked.lean ====
section
/-!
DEFINITION. The cycle-level interface (70_reset_and_hazards.md R248, R249): the signals a clocked block drives, and one
rising clock edge, on which the transaction of the pins happens, except that a response is offered only when `LAT` cycles
have passed since the acceptance.
-/

namespace Sys2Proof.Machine

/-- A clocked block: its state, and the cycles from the last acceptance to the coming edge. -/
structure Clocked where
  st : State
  age : Nat
  deriving DecidableEq, Repr

/-- `rsp_valid` (R249): `RSPV` = 1 and `LAT` cycles have passed since acceptance; not while `rst` is asserted (R240). -/
def Clocked.rspValid (c : Clocked) (rst : Bool) : Bool := c.st.rspOffered rst && decide (Config.lat ≤ c.age)

/-- The pins as the block sees them: the caller takes a response only at an edge where it is valid (R249). -/
def Clocked.seen (c : Clocked) (p : Pins) : Pins := { p with rspReady := p.rspReady && c.rspValid p.rst }

/-- Accept happens at an edge where `req_valid` and `req_ready` are both 1 (R249). -/
def Clocked.accepts (c : Clocked) (p : Pins) : Bool := p.req.isSome && c.st.reqReady p.rst

/-- One rising clock edge (R249). At the edge after an acceptance one cycle has passed (log entry 8). DESIGN CHOICE: `rst` is
synchronous, so it clears the record only at an edge where it is sampled asserted; R249 says of the two channels alone that
they are sampled at the edge (log entry 13). -/
def Clocked.edge (c : Clocked) : Host.Outcome Clocked Fault Refusal :=
  let p := c.st.pins
  match c.st.transaction (c.seen p) with
  | .next t => .next { st := t, age := if c.accepts p then 1 else c.age + 1 }
  | .fault r => .fault r
  | .refused r => .refused r

/-- `k` clock edges, stopping at the first that stops. -/
def Clocked.edges : Nat → Clocked → Host.Outcome Clocked Fault Refusal
  | 0, c => .next c
  | k + 1, c =>
    match c.edge with
    | .next d => d.edges k
    | .fault r => .fault r
    | .refused r => .refused r

/-- The output signals of R249. -/
structure Signals where
  reqReady : Bool
  rspValid : Bool
  rsph : BitVec 32
  mask : Nat
  sts : BitVec 16
  deriving DecidableEq, Repr

/-- What the block drives while the reset input has the given value (R240, R249). -/
def Clocked.signals (c : Clocked) (rst : Bool) : Signals :=
  { reqReady := c.st.reqReady rst, rspValid := c.rspValid rst, rsph := rsph c.st.rsp,
    mask := (maskBus c.st.build c.st.rsp).toNat, sts := sts c.st }

end Sys2Proof.Machine
end

