-- ==== Sys2Proof/WellFormed.lean ====
section
/-!
DEFINITION. Which instructions a build admits (`Instr.wf`: the width check of 30_encoding.md R62), and which lie in the
domain the rule of their operation states (`Instr.inDomain`: the shapes, table form and table length outside which the
operation faults). Both are written from the spec's lists of shapes, not from the machine's arithmetic, so that the
machine can be held against them. An instruction outside either still RUNS in the machine: it takes the fault the spec
names.
-/

namespace Sys2Proof

/-- `VB` code 3 is legal only when `VMAX_BITS` = 512, every other code always (R62). -/
def Build.admits : Build → VecWidth → Bool
  | _, .v64 => true
  | _, .v128 => true
  | _, .v256 => true
  | .b256, .v512 => false
  | .b512, .v512 => true

/-- The instruction raises no BAD_SHAPE in this build: it reads no shape, or one the build admits (R62, R91). -/
def Instr.wf (b : Build) (i : Instr) : Bool :=
  match i.shape with
  | none => true
  | some (vb, _) => b.admits vb

/-- The shapes of one lane group with an even element count: all of v64 and v128 but v64.e64 (R102, R103). -/
def oneGroupEven : VecWidth → EltWidth → Bool
  | .v64, .e64 => false
  | .v64, _ => true
  | .v128, _ => true
  | .v256, _ => false
  | .v512, _ => false

/-- The shapes with 2, 4 or 8 elements in a lane group: every shape but v128.e8, v256.e8, v512.e8 (16 elements) and
v64.e64 (one) (R105, R106). -/
def digitGroup : VecWidth → EltWidth → Bool
  | .v64, .e64 => false
  | .v64, _ => true
  | _, .e8 => false
  | _, _ => true

/-- Words in whole groups of 8: v128.e16, v256.e16 and v512.e16 (R107, R108). -/
def wordGroups : VecWidth → EltWidth → Bool
  | .v64, _ => false
  | _, .e16 => true
  | _, _ => false

/-- Every shape but v64.e64, the only one with a single element in a lane group (R140). -/
def pairGroup : VecWidth → EltWidth → Bool
  | .v64, .e64 => false
  | _, _ => true

/-- Exactly two lane groups: the v256 shapes (R109). -/
def twoGroups : VecWidth → Bool
  | .v256 => true
  | _ => false

/-- "size 16 or 32 only" (R150). -/
def tableLength (tlen : BitVec 6) : Bool := tlen == 16 || tlen == 32

/-- The instruction meets the preconditions its operation's rule states on shape, table form and table length. -/
def Instr.inDomain : Instr → Bool
  | .insert _ _ _ => true
  | .movhl vb eb => oneGroupEven vb eb
  | .movlh vb eb => oneGroupEven vb eb
  | .align _ _ _ => true
  | .permi vb eb _ => digitGroup vb eb
  | .shufp vb eb _ => digitGroup vb eb
  | .permhw vb eb _ _ _ _ => wordGroups vb eb
  | .permlw vb eb _ _ _ _ => wordGroups vb eb
  | .unpckh vb eb => pairGroup vb eb
  | .unpckl vb eb => pairGroup vb eb
  | .perm2x128 vb _ _ _ _ _ => twoGroups vb
  | .bshufc tlen tvec tebits => tvec && tebits == 8 && tableLength tlen
  | .bshufr tlen => tableLength tlen
  | .blend _ _ _ => true
  | .permq _ _ _ _ => true

end Sys2Proof
end

