-- ==== Sys2Proof/Safety.lean ====
section
/-!
DEFINITION. The terms claims about the block are stated in: what answers what, how an operation completes or faults and
what it leaves alone, the invariant of the machine, and the ends of a run (40_execution.md R92, R94 to R99).
-/

namespace Sys2Proof.Machine

/-! ## Responses -/

/-- `p` is a response R92 allows for the outcome `o` in build `b`: every field its row gives, and nothing of the mask
entries from `LEN` on but that the array holds `MAX_OUT` of them. -/
def Answers (b : Build) (o : OpOutcome) (p : Response) : Prop :=
  p.mask.length = Config.maxOut b ∧
  match o with
  | .ok M =>
    p.status = .ok ∧ p.len = BitVec.ofNat 7 M.length ∧ p.cause = .none ∧ p.info = 0 ∧
      p.mask.take M.length = M.map Entry.toByte
  | .empty => p.status = .empty ∧ p.len = 0 ∧ p.cause = .none ∧ p.info = 0
  | .fault c x => p.status = .fault ∧ p.len = 0 ∧ p.cause = c ∧ p.info = x

/-- Two responses a caller cannot tell apart: equal headers, and equal mask entries below `LEN` (R84). -/
def SameAnswer (p q : Response) : Prop :=
  rsph p = rsph q ∧ p.mask.take p.len.toNat = q.mask.take q.len.toNat

/-- The two requests have the `OP` of operation `o`, clear reserved fields, and the same value in every field that the row of
R69 for `o` says `o` reads; in the fields it says `o` ignores they may differ. -/
def ReadsTheSame (o : Op) (r r' : Request) : Prop :=
  opOfCode (cmdOp r.cmd) = some o ∧ cmdOp r'.cmd = cmdOp r.cmd ∧ reservedClear r.cmd = true ∧ reservedClear r'.cmd = true ∧
  (o.readsShape = true → cmdVb r'.cmd = cmdVb r.cmd ∧ cmdEb r'.cmd = cmdEb r.cmd) ∧
  (o ∈ [.insert, .permhw, .permlw, .permq] → (cmdImm r'.cmd).extractLsb' 0 8 = (cmdImm r.cmd).extractLsb' 0 8) ∧
  (o ∈ [.align, .permi, .shufp] → cmdImm r'.cmd = cmdImm r.cmd) ∧
  (o = .perm2x128 → ∀ k ∈ [7, 5, 4, 3, 1, 0], (cmdImm r'.cmd).getLsbD k = (cmdImm r.cmd).getLsbD k) ∧
  (o = .blend → ∀ k < (geometry (vecWidthOfCode (cmdVb r.cmd)) (eltWidthOfCode (cmdEb r.cmd))).n,
    (cmdImm r'.cmd).getLsbD k = (cmdImm r.cmd).getLsbD k) ∧
  (o = .bshufc → cmdTlen r'.cmd = cmdTlen r.cmd ∧ cmdTvec r'.cmd = cmdTvec r.cmd ∧ cmdTebits r'.cmd = cmdTebits r.cmd) ∧
  (o = .bshufr → cmdTlen r'.cmd = cmdTlen r.cmd) ∧
  (o.family = .byteTable → ∀ k < (cmdTlen r.cmd).toNat, tblByte r'.tbl k = tblByte r.tbl k)

/-! ## What an operation does to the state -/

/-- `t` has the fault record of `s`: `HALTED`, `FAULT_CAUSE` and `FAULT_INFO` (R25). -/
def SameRecord (s t : State) : Prop :=
  t.halted = s.halted ∧ t.faultCause = s.faultCause ∧ t.faultInfo = s.faultInfo

/-- What every operation leaves alone: the build, the request, the channel and the caller's observation. `RSP`, `RSPV` and
the fault record, the rest of R23, are each claim's own. -/
def Frame (s t : State) : Prop :=
  t.build = s.build ∧ t.current = s.current ∧ t.waiting = s.waiting ∧ t.inputs = s.inputs ∧ t.history = s.history

/-- The instruction runs from `s` to a state that holds the OK response for mask `M`, and changes nothing else. -/
def Completes (i : Instr) (s : State) (M : List Entry) : Prop :=
  ∃ t, exec i s = .next t ∧ t.rspv = true ∧ Answers s.build (.ok M) t.rsp ∧ SameRecord s t ∧ Frame s t

/-- The instruction runs from `s` to a state that holds the EMPTY response, and changes nothing else (R205). -/
def CompletesEmpty (i : Instr) (s : State) : Prop :=
  ∃ t, exec i s = .next t ∧ t.rspv = true ∧ Answers s.build .empty t.rsp ∧ SameRecord s t ∧ Frame s t

/-- The instruction takes the fault of cause `c` and information word `x` (R203), and changes nothing else. -/
def TakesFault (i : Instr) (s : State) (c : Cause) (x : Byte) : Prop :=
  ∃ t, exec i s = .next t ∧ t.rspv = true ∧ Answers s.build (.fault c x) t.rsp ∧
    t.halted = true ∧ t.faultCause = c ∧ t.faultInfo = x ∧ Frame s t

/-- The architectural record of R23 is the same in `s` and `t`. -/
def SameBlock (s t : State) : Prop := SameRecord s t ∧ t.rspv = s.rspv ∧ t.rsp = s.rsp ∧ t.build = s.build

/-! ## Masks -/

/-- The entry is the zero sentinel or an index below `n` (R95). -/
def Entry.below (n : Nat) : Entry → Prop
  | .lane i => i < n
  | .zero => True

/-- The mask length R94 gives each operation. -/
def maskLength : Instr → Nat
  | .insert _ _ _ => 4
  | .movhl vb eb => (geometry vb eb).n
  | .movlh vb eb => (geometry vb eb).n
  | .align vb eb _ => (geometry vb eb).n
  | .permi vb eb _ => (geometry vb eb).n
  | .shufp vb eb _ => (geometry vb eb).n
  | .permhw vb eb _ _ _ _ => (geometry vb eb).n
  | .permlw vb eb _ _ _ _ => (geometry vb eb).n
  | .unpckh vb eb => (geometry vb eb).n
  | .unpckl vb eb => (geometry vb eb).n
  | .perm2x128 vb eb _ _ _ _ => (geometry vb eb).n
  | .bshufc tlen _ _ => tlen.toNat
  | .bshufr tlen => tlen.toNat
  | .blend vb eb _ => (geometry vb eb).n
  | .permq _ _ _ _ => 4

/-- The mask of `n` entries with entry `f p` at position `p` (R11). -/
def maskOf (n : Nat) (f : Nat → Entry) : List Entry := (List.range n).map f

/-! ## The history of a run -/

/-- The request accepted last and neither answered nor lost in a reset; the latest event stands first. -/
def outstanding : List Observation → Option Request
  | .accepted r :: _ => some r
  | .delivered _ _ :: _ => none
  | .reset :: _ => none
  | [] => none

/-- Every request was accepted with none outstanding, and every response delivered answers the request that was (R44,
R90). -/
def HistoryRight (b : Build) : List Observation → Prop
  | [] => True
  | .accepted _ :: h => outstanding h = none ∧ HistoryRight b h
  | .delivered r p :: h => outstanding h = some r ∧ Answers b (requestOutcome b r) p ∧ HistoryRight b h
  | .reset :: h => HistoryRight b h

/-- The part of a history after its latest reset. -/
def sinceReset : List Observation → List Observation
  | [] => []
  | .reset :: _ => []
  | o :: h => o :: sinceReset h

/-- The requests a history accepted, latest first. -/
def acceptedRequests : List Observation → List Request
  | [] => []
  | .accepted r :: h => r :: acceptedRequests h
  | .delivered _ _ :: h => acceptedRequests h
  | .reset :: h => acceptedRequests h

/-- The requests a history answered, latest first. -/
def answeredRequests : List Observation → List Request
  | [] => []
  | .accepted _ :: h => answeredRequests h
  | .delivered r _ :: h => r :: answeredRequests h
  | .reset :: h => answeredRequests h

/-- The latest event is the delivery of the fault response of cause `c` and information word `x`. -/
def lastFault (h : List Observation) (c : Cause) (x : Byte) : Prop :=
  ∃ r p rest, h = .delivered r p :: rest ∧ p.status = .fault ∧ p.cause = c ∧ p.info = x

/-! ## The invariant -/

/-- What holds at reset and after every step. -/
structure Inv (s : State) : Prop where
  /-- The mask array has `MAX_OUT` entries (R23). -/
  maskSize : s.rsp.mask.length = Config.maxOut s.build
  /-- `FAULT_CAUSE` and `FAULT_INFO` are 0 when `HALTED` = 0 (R23). -/
  noRecord : s.halted = false → s.faultCause = .none ∧ s.faultInfo = 0
  /-- A halted block records a cause (R24, R25). -/
  record : s.halted = true → s.faultCause ≠ .none
  /-- The INFO field of `STS` is "0 to `MAX_OUT`-1" (R27). -/
  infoRange : s.faultInfo.toNat < Config.maxOut s.build
  /-- A held response answers the request last accepted (R26, R44). -/
  held : s.rspv = true → Answers s.build (requestOutcome s.build s.current) s.rsp
  /-- While a response is held, the block is halted exactly when that response is a fault, and records that fault
  (R24, R25). -/
  heldFault : s.rspv = true →
    (s.halted = true ↔ s.rsp.status = .fault) ∧
    (s.halted = true → s.rsp.cause = s.faultCause ∧ s.rsp.info = s.faultInfo)
  /-- A halted block whose response is taken has delivered the fault it records, and nothing happened since (R204). -/
  takenFault : s.halted = true → s.rspv = false → lastFault s.history s.faultCause s.faultInfo
  /-- The request outstanding is the one the held response answers (R44). -/
  pending : outstanding s.history = if s.rspv then some s.current else none
  /-- What the run has shown is right (R44). -/
  past : HistoryRight s.build s.history

/-! ## The ends of a run (R99) -/

/-- "quiescent when `RSPV` = 0 and the caller presents no request" (R99). -/
def State.quiescent (s : State) : Bool := !s.rspv && s.pins.req.isNone

/-- "stuck when `HALTED` = 1 and `RSPV` = 0, since then only reset enables a step" (R99). -/
def State.stuck (s : State) : Bool := s.halted && !s.rspv

/-- `t` is reached from `s` by steps at none of which reset is asserted: what happens "from then on [...] until reset"
(R203). -/
inductive RunsWithoutReset : State → State → Prop where
  | here (s : State) : RunsWithoutReset s s
  | step {s t u : State} (hr : s.pins.rst = false) (h : Sys2Proof.Machine.step s = .next t)
      (rest : RunsWithoutReset t u) : RunsWithoutReset s u

end Sys2Proof.Machine
end

