-- ==== Sys2Proof/Certificates/Slice0/Obligations.lean ====
section
/-!
DEFINITION. The statements for the provers, each a `def Obligations.<Name> : Prop` that formalises rules of spec/. They speak of
the machine, never of a program, and hold in both builds.
-/

open Sys2Proof Sys2Proof.Machine

/-- For every instruction, with every operand at every value, the decoder reads the encoder's command word back as that
instruction: no operand bit is dropped or moved between the two (R60, R62, R63, R66 to R68, R74 to R77). -/
def Obligations.DecodeOfEncodeIsTheInstruction : Prop :=
  ∀ i : Instr, decode (encode i) = .ok i

/-- A command word decodes to an instruction of operation o exactly when the word masked with 0x80F0FF is the OP code of
o: the mask and the match of o's row (R68, with R60, R70 and R71). -/
def Obligations.DecodeAcceptsExactlyTheTableRows : Prop :=
  ∀ (c : Cmd) (o : Op), (∃ i, decode c = .ok i ∧ i.op = o) ↔ c &&& 0x80F0FF#64 = (opCode o).setWidth 64

/-- Command words of every family, each one that 95_test_vectors.md section 2 lists (2.1, 2.3, 2.6, 2.7, 2.9, 2.10 and
2.11), decode to the instruction the vector names, with the codes and fields of R60, R62, R63, R67, R68, R74, R75 and
R77; the all-zero word and a word with a reserved bit, both of 2.12, are rejected by name. -/
def Obligations.WrittenOutWordsDecode : Prop :=
  decode 0x000000E000000001 = .ok (.insert 0 2 3) ∧
  decode 0x0000000400000204 = .ok (.align .v256 .e8 4) ∧
  decode 0x0000001B00000507 = .ok (.permhw .v128 .e16 3 2 1 0) ∧
  decode 0x0000006400000A0B = .ok (.perm2x128 .v256 .e32 0 false 2 false) ∧
  decode 0x000000000000090A = .ok (.unpckl .v128 .e32) ∧
  decode 0x000000000850000C = .ok (.bshufc 16 true 8) ∧
  decode 0x000000050000090E = .ok (.blend .v128 .e32 5) ∧
  decode 0x0000000000000000 = .error .illegalOp ∧
  decode 0x0000003000000021 = .error .reservedBits

/-- The command word of given fields, the reserved ones 0, is the number R60 assembles it as: (IMM << 32) | (TEBITS << 24)
| (TVEC << 22) | (TLEN << 16) | (EB << 10) | (VB << 8) | OP. -/
def Obligations.CommandWordIsAssembledFromItsFields : Prop :=
  ∀ (imm : Imm) (tebits : BitVec 8) (tvec : Bool) (tlen : BitVec 6) (eb vb : BitVec 2) (op : BitVec 5),
    (command imm tebits tvec tlen eb vb op).toNat =
      imm.toNat * 2 ^ 32 + tebits.toNat * 2 ^ 24 + tvec.toNat * 2 ^ 22 + tlen.toNat * 2 ^ 16 + eb.toNat * 2 ^ 10 +
        vb.toNat * 2 ^ 8 + op.toNat

/-- A line whose shape suffix is present exactly when its operation reads the shape assembles to one request: its word
decodes to an instruction of the line's operation and shape, IMM and the table fields of the word are the written
operands, and every table entry is the written one or 0. Any other line is a syntax error, missingShape or
unexpectedShape (R85). That the characters of a line are not modelled is the model's choice (log entry 9). -/
def Obligations.AssembledLineIsItsCommand : Prop :=
  ∀ a : AsmLine,
    (a.shape.isSome = a.op.readsShape → ∃ r i, assemble a = .ok r ∧ decode r.cmd = .ok i ∧ i.op = a.op ∧ i.shape = a.shape ∧
      cmdImm r.cmd = a.imm ∧ cmdTlen r.cmd = a.tlen ∧ cmdTvec r.cmd = a.tvec ∧ cmdTebits r.cmd = a.tebits ∧
      ∀ k < 32, tblEntry r.tbl k = BitVec.ofNat 64 (a.tbl.getD k 0)) ∧
    (a.op.readsShape = true → a.shape = none → assemble a = .error .missingShape) ∧
    (a.op.readsShape = false → a.shape ≠ none → assemble a = .error .unexpectedShape)

/-- N, NumLanes and LaneElts of each of the sixteen shapes are those of the table of R65; in every shape LaneElts divides
N, and the NumLanes groups of LaneElts elements are the N positions. -/
def Obligations.LaneGeometryOfEveryShape : Prop :=
  (∀ vb eb, (geometry vb eb).numLanes = max 1 (totalBits vb / 128) ∧
    (geometry vb eb).laneElts = (geometry vb eb).n / (geometry vb eb).numLanes ∧
    (geometry vb eb).laneElts ∣ (geometry vb eb).n ∧
    (geometry vb eb).numLanes * (geometry vb eb).laneElts = (geometry vb eb).n) ∧
  [VecWidth.v64, .v128, .v256, .v512].map (fun vb => [EltWidth.e8, .e16, .e32, .e64].map fun eb =>
      ((geometry vb eb).n, (geometry vb eb).numLanes, (geometry vb eb).laneElts)) =
    [[(8, 1, 8), (4, 1, 4), (2, 1, 2), (1, 1, 1)], [(16, 1, 16), (8, 1, 8), (4, 1, 4), (2, 1, 2)],
     [(32, 2, 16), (16, 2, 8), (8, 2, 4), (4, 2, 2)], [(64, 4, 16), (32, 4, 8), (16, 4, 4), (8, 4, 2)]]

/-- When Accept is enabled and the request presented has an OP code outside 0x01 to 0x0F, the step holds the response
FAULT(ILLEGAL_OP, 0), halts the block and records the cause, whatever the other fields and the table hold (R71). -/
def Obligations.IllegalOpFaults : Prop :=
  ∀ (s : State) (r : Request),
    s.pins.rst = false → s.pins.req = some r → s.halted = false → s.rspv = false →
    keepsRequest s.waiting s.pins.req = true →
    (cmdOp r.cmd).toNat < 0x01 ∨ 0x0F < (cmdOp r.cmd).toNat →
    ∃ t, step s = .next t ∧ t.rspv = true ∧ Answers s.build (.fault .illegalOp 0) t.rsp ∧
      t.halted = true ∧ t.faultCause = .illegalOp ∧ t.faultInfo = 0

/-- When Accept is enabled and the request presented has a legal OP code and RSV0, RSV1 or RSV2 not 0, the step holds the
response FAULT(RESERVED_BITS, 0), halts the block and records the cause (R70). -/
def Obligations.ReservedBitsFault : Prop :=
  ∀ (s : State) (r : Request),
    s.pins.rst = false → s.pins.req = some r → s.halted = false → s.rspv = false →
    keepsRequest s.waiting s.pins.req = true →
    0x01 ≤ (cmdOp r.cmd).toNat → (cmdOp r.cmd).toNat ≤ 0x0F →
    cmdRsv0 r.cmd ≠ 0 ∨ cmdRsv1 r.cmd ≠ 0 ∨ cmdRsv2 r.cmd ≠ 0 →
    ∃ t, step s = .next t ∧ t.rspv = true ∧ Answers s.build (.fault .reservedBits 0) t.rsp ∧
      t.halted = true ∧ t.faultCause = .reservedBits ∧ t.faultInfo = 0

/-- The four codes of VB name the widths 64, 128, 256 and 512, each whole 128-bit groups or less than one. An operation
that reads the shape and finds code 3 in a build with VMAX_BITS = 256 takes Fault(BAD_SHAPE, 0), before any check of
its own (R62). In a build with VMAX_BITS = 512, and for every other code, no operation takes that fault. -/
def Obligations.WideShapeFaultsInNarrowBuild : Prop :=
  [0, 1, 2, 3].map (fun code => totalBits (vecWidthOfCode code)) = [64, 128, 256, 512] ∧
  (∀ vb, totalBits vb % 128 = 0 ∨ totalBits vb < 128) ∧
  ∀ (i : Instr) (vb : VecWidth) (eb : EltWidth) (s : State), i.shape = some (vb, eb) →
    (vb = vecWidthOfCode 3 → s.build = .b256 → TakesFault i s .badShape 0) ∧
    (vb ≠ vecWidthOfCode 3 ∨ s.build = .b512 → ∀ x, outcome s.build s.current.tbl i ≠ .fault .badShape x)

/-- INSERT, with any operands and from any state, completes with four entries: entry k is the zero sentinel where bit k of
ZMASK is 1, else 4 + COUNTS at k = COUNTD, else k; nothing else of the state changes (R101). The word it is encoded as
holds ZMASK in IMM[3:0], COUNTD in IMM[5:4] and COUNTS in IMM[7:6], and IMM[31:8] does not reach the instruction
(R74). -/
def Obligations.InsertAnswersItsMask : Prop :=
  (∀ (zmask : BitVec 4) (countd counts : BitVec 2) (s : State),
    Completes (.insert zmask countd counts) s
      (maskOf 4 fun k => if zmask.getLsbD k then .zero else if k = countd.toNat then .lane (4 + counts.toNat) else .lane k)) ∧
  ∀ c : Cmd, c &&& 0x80F0FF#64 = 0x01 →
    decode c = .ok (.insert ((cmdImm c).extractLsb' 0 4) ((cmdImm c).extractLsb' 4 2) ((cmdImm c).extractLsb' 6 2))

/-- MOVHL, in every shape the build admits: with one lane group and an even element count it completes with the back half
of source 2 in the front half and the back half of source 1 in the back half; in every other shape (the v256 and v512
ones and v64.e64) it takes Fault(SHAPE_PRECOND, 0) (R102). -/
def Obligations.MovhlAnswersItsMask : Prop :=
  ∀ (vb : VecWidth) (eb : EltWidth) (s : State), s.build.admits vb = true →
    let n := (geometry vb eb).n
    ((geometry vb eb).numLanes = 1 ∧ n % 2 = 0 ↔ oneGroupEven vb eb = true) ∧
    (oneGroupEven vb eb = true → Completes (.movhl vb eb) s
      (maskOf n fun k => if k < n / 2 then .lane (n + n / 2 + k) else .lane k)) ∧
    (oneGroupEven vb eb = false → TakesFault (.movhl vb eb) s .shapePrecond 0)

/-- MOVLH, in every shape the build admits: with one lane group and an even element count it completes with the front half
of source 1 in the front half and the front half of source 2 in the back half; in every other shape (the v256 and v512
ones and v64.e64) it takes Fault(SHAPE_PRECOND, 0) (R103). -/
def Obligations.MovlhAnswersItsMask : Prop :=
  ∀ (vb : VecWidth) (eb : EltWidth) (s : State), s.build.admits vb = true →
    let n := (geometry vb eb).n
    ((geometry vb eb).numLanes = 1 ∧ n % 2 = 0 ↔ oneGroupEven vb eb = true) ∧
    (oneGroupEven vb eb = true → Completes (.movlh vb eb) s
      (maskOf n fun k => if k < n / 2 then .lane k else .lane (n + (k - n / 2)))) ∧
    (oneGroupEven vb eb = false → TakesFault (.movlh vb eb) s .shapePrecond 0)

/-- ALIGN, in every shape the build admits, shifts by IMM elements, every bit of IMM counting. Position p of a lane group
reads p + IMM while that stays in the group, else p + IMM + N - LaneElts. For IMM up to LaneElts every index is below
2N and the operation completes with them; for every greater IMM some index reaches 2N, and it takes Fault(ALIGN_RANGE,
p) at the lowest such position p (R104). -/
def Obligations.AlignAnswersItsWindowOrFaults : Prop :=
  ∀ (vb : VecWidth) (eb : EltWidth) (imm : Imm) (s : State), s.build.admits vb = true →
    let n := (geometry vb eb).n
    let lane := (geometry vb eb).laneElts
    let index := fun p => if p % lane + imm.toNat < lane then p + imm.toNat else p + imm.toNat + n - lane
    (imm.toNat ≤ lane → (∀ p < n, index p < 2 * n) ∧ Completes (.align vb eb imm) s (maskOf n fun p => .lane (index p))) ∧
    (lane < imm.toNat → ∃ p < n, 2 * n ≤ index p ∧ (∀ q < p, index q < 2 * n) ∧
      TakesFault (.align vb eb imm) s .alignRange (BitVec.ofNat 8 p))

/-- PERMI, in every shape the build admits: with 2, 4 or 8 elements in a lane group it completes, position p reading its
own lane group of source 1 at a digit of IMM in base LaneElts: digit p mod LaneElts when LaneElts is 4 (the immediate
is reloaded for every lane group), else digit p (it goes on draining across lane groups). In every other shape it
takes Fault(SHAPE_PRECOND, 0) (R105). -/
def Obligations.PermiAnswersItsDigits : Prop :=
  ∀ (vb : VecWidth) (eb : EltWidth) (imm : Imm) (s : State), s.build.admits vb = true →
    let n := (geometry vb eb).n
    let lane := (geometry vb eb).laneElts
    let digit := fun j => imm.toNat / lane ^ j % lane
    (lane = 2 ∨ lane = 4 ∨ lane = 8 ↔ digitGroup vb eb = true) ∧
    (digitGroup vb eb = true → Completes (.permi vb eb imm) s
      (maskOf n fun p => .lane (p / lane * lane + digit (if lane = 4 then p % lane else p)))) ∧
    (digitGroup vb eb = false → TakesFault (.permi vb eb imm) s .shapePrecond 0)

/-- SHUFP, in every shape the build admits: with 2, 4 or 8 elements in a lane group it completes, position p reading its
own lane group, of source 1 in the group's front half and of source 2 in its back half, at the digit of IMM that PERMI
reads at p. In every other shape it takes Fault(SHAPE_PRECOND, 0) (R106). -/
def Obligations.ShufpAnswersItsDigits : Prop :=
  ∀ (vb : VecWidth) (eb : EltWidth) (imm : Imm) (s : State), s.build.admits vb = true →
    let n := (geometry vb eb).n
    let lane := (geometry vb eb).laneElts
    let digit := fun j => imm.toNat / lane ^ j % lane
    (lane = 2 ∨ lane = 4 ∨ lane = 8 ↔ digitGroup vb eb = true) ∧
    (digitGroup vb eb = true → Completes (.shufp vb eb imm) s
      (maskOf n fun p => .lane (p / lane * lane + (if p % lane < lane / 2 then 0 else n) + digit (if lane = 4 then p % lane else p)))) ∧
    (digitGroup vb eb = false → TakesFault (.shufp vb eb imm) s .shapePrecond 0)

/-- PERMHW, in every shape the build admits: with 16-bit elements in whole groups of 8 it completes, the low four
positions of every group copied and position 4 + k of a group reading element 4 + SEL_k of the same group, the same
four selectors in every group. In every other shape it takes Fault(SHAPE_PRECOND, 0) (R107). In the command word SEL_k
is IMM[2k+1:2k], and IMM[31:8] does not reach the instruction (R77, for PERMHW). -/
def Obligations.PermhwAnswersItsPicks : Prop :=
  (∀ (vb : VecWidth) (eb : EltWidth) (sel0 sel1 sel2 sel3 : BitVec 2) (s : State), s.build.admits vb = true →
    let n := (geometry vb eb).n
    let sel := fun k => ([sel0, sel1, sel2, sel3].getD k 0).toNat
    ((geometry vb eb).elt = 16 ∧ n % 8 = 0 ↔ wordGroups vb eb = true) ∧
    (wordGroups vb eb = true → Completes (.permhw vb eb sel0 sel1 sel2 sel3) s
      (maskOf n fun p => if p % 8 < 4 then .lane p else .lane (p / 8 * 8 + 4 + sel (p % 8 - 4)))) ∧
    (wordGroups vb eb = false → TakesFault (.permhw vb eb sel0 sel1 sel2 sel3) s .shapePrecond 0)) ∧
  ∀ c : Cmd, c &&& 0x80F0FF#64 = 0x07 →
    decode c = .ok (.permhw (vecWidthOfCode (cmdVb c)) (eltWidthOfCode (cmdEb c)) ((cmdImm c).extractLsb' 0 2)
      ((cmdImm c).extractLsb' 2 2) ((cmdImm c).extractLsb' 4 2) ((cmdImm c).extractLsb' 6 2))

/-- PERMLW, in every shape the build admits: with 16-bit elements in whole groups of 8 it completes, position k below 4 of
a group reading element SEL_k of the same group, the same four selectors in every group, and the high four positions
copied. In every other shape it takes Fault(SHAPE_PRECOND, 0) (R108). In the command word SEL_k is IMM[2k+1:2k], and
IMM[31:8] does not reach the instruction (R77, for PERMLW). -/
def Obligations.PermlwAnswersItsPicks : Prop :=
  (∀ (vb : VecWidth) (eb : EltWidth) (sel0 sel1 sel2 sel3 : BitVec 2) (s : State), s.build.admits vb = true →
    let n := (geometry vb eb).n
    let sel := fun k => ([sel0, sel1, sel2, sel3].getD k 0).toNat
    ((geometry vb eb).elt = 16 ∧ n % 8 = 0 ↔ wordGroups vb eb = true) ∧
    (wordGroups vb eb = true → Completes (.permlw vb eb sel0 sel1 sel2 sel3) s
      (maskOf n fun p => if p % 8 < 4 then .lane (p / 8 * 8 + sel (p % 8)) else .lane p)) ∧
    (wordGroups vb eb = false → TakesFault (.permlw vb eb sel0 sel1 sel2 sel3) s .shapePrecond 0)) ∧
  ∀ c : Cmd, c &&& 0x80F0FF#64 = 0x08 →
    decode c = .ok (.permlw (vecWidthOfCode (cmdVb c)) (eltWidthOfCode (cmdEb c)) ((cmdImm c).extractLsb' 0 2)
      ((cmdImm c).extractLsb' 2 2) ((cmdImm c).extractLsb' 4 2) ((cmdImm c).extractLsb' 6 2))

/-- UNPCKH, in every shape the build admits: with at least 2 elements in a lane group it completes, the positions of each
lane group alternating between source 1 and source 2 through the upper half of that group. In v64.e64, the only other
shape, it takes Fault(SHAPE_PRECOND, 0) (R141). -/
def Obligations.UnpckhAnswersItsPattern : Prop :=
  ∀ (vb : VecWidth) (eb : EltWidth) (s : State), s.build.admits vb = true →
    let n := (geometry vb eb).n
    let lane := (geometry vb eb).laneElts
    (2 ≤ lane ↔ pairGroup vb eb = true) ∧
    (pairGroup vb eb = true → Completes (.unpckh vb eb) s
      (maskOf n fun p => .lane (p / lane * lane + lane / 2 + p % lane / 2 + (if p % 2 = 0 then 0 else n)))) ∧
    (pairGroup vb eb = false → TakesFault (.unpckh vb eb) s .shapePrecond 0)

/-- UNPCKL, in every shape the build admits: with at least 2 elements in a lane group it completes, the positions of each
lane group alternating between source 1 and source 2 through the lower half of that group. In v64.e64, the only other
shape, it takes Fault(SHAPE_PRECOND, 0) (R142). -/
def Obligations.UnpcklAnswersItsPattern : Prop :=
  ∀ (vb : VecWidth) (eb : EltWidth) (s : State), s.build.admits vb = true →
    let n := (geometry vb eb).n
    let lane := (geometry vb eb).laneElts
    (2 ≤ lane ↔ pairGroup vb eb = true) ∧
    (pairGroup vb eb = true → Completes (.unpckl vb eb) s
      (maskOf n fun p => .lane (p / lane * lane + p % lane / 2 + (if p % 2 = 0 then 0 else n)))) ∧
    (pairGroup vb eb = false → TakesFault (.unpckl vb eb) s .shapePrecond 0)

/-- PERM2X128, in every shape the build admits: with zeroing bit Z0 or Z1 set it answers EMPTY, whatever the shape, and
halts nothing; otherwise, in the two-group shapes (v256), it completes, each half of the destination copying quarter
SEL0 or SEL1 of the two sources in order; in every other shape it takes Fault(SHAPE_PRECOND, 0) (R109). In the command
word SEL0 is IMM[1:0], Z0 is IMM[3], SEL1 is IMM[5:4] and Z1 is IMM[7], and no other bit of IMM reaches the
instruction (R75). -/
def Obligations.Perm2x128CopiesQuartersOrAnswersEmpty : Prop :=
  (∀ (vb : VecWidth) (eb : EltWidth) (sel0 : BitVec 2) (z0 : Bool) (sel1 : BitVec 2) (z1 : Bool) (s : State),
    s.build.admits vb = true →
    let half := (geometry vb eb).n / 2
    ((geometry vb eb).numLanes = 2 ↔ twoGroups vb = true) ∧
    (z0 = true ∨ z1 = true → CompletesEmpty (.perm2x128 vb eb sel0 z0 sel1 z1) s) ∧
    (z0 = false → z1 = false → twoGroups vb = true → Completes (.perm2x128 vb eb sel0 z0 sel1 z1) s
      (maskOf (geometry vb eb).n fun p =>
        if p < half then .lane (sel0.toNat * half + p) else .lane (sel1.toNat * half + (p - half)))) ∧
    (z0 = false → z1 = false → twoGroups vb = false →
      TakesFault (.perm2x128 vb eb sel0 z0 sel1 z1) s .shapePrecond 0)) ∧
  ∀ c : Cmd, c &&& 0x80F0FF#64 = 0x0B →
    decode c = .ok (.perm2x128 (vecWidthOfCode (cmdVb c)) (eltWidthOfCode (cmdEb c)) ((cmdImm c).extractLsb' 0 2)
      ((cmdImm c).getLsbD 3) ((cmdImm c).extractLsb' 4 2) ((cmdImm c).getLsbD 7))

/-- PERMQ, with any selectors and from any state, completes with four entries, entry i the index SRC_i; nothing else of
the state changes (R110). In the command word SRC_i is IMM[2i+1:2i], and IMM[31:8] does not reach the instruction
(R76). -/
def Obligations.PermqAnswersItsSelectors : Prop :=
  (∀ (src0 src1 src2 src3 : BitVec 2) (s : State), Completes (.permq src0 src1 src2 src3) s
    (maskOf 4 fun k => .lane ([src0, src1, src2, src3].getD k 0).toNat)) ∧
  ∀ c : Cmd, c &&& 0x80F0FF#64 = 0x0F →
    decode c = .ok (.permq ((cmdImm c).extractLsb' 0 2) ((cmdImm c).extractLsb' 2 2) ((cmdImm c).extractLsb' 4 2)
      ((cmdImm c).extractLsb' 6 2))

/-- BSHUFC, from any state: a constant that is no vector or has elements not 8 bits wide takes Fault(TBL_FORM, 0); else a
length other than 16 or 32 takes Fault(TBL_LEN, 0); else a first entry, at position p, with bit 7 clear and the low
seven bits 16 or more takes Fault(TBL_INDEX, p); else the operation completes, entry k the zero sentinel where bit 7
of byte k is set and otherwise its low seven bits within its own 16-byte half (R150 to R152). -/
def Obligations.BshufcDecodesItsTableOrFaults : Prop :=
  ∀ (tlen : BitVec 6) (tvec : Bool) (tebits : BitVec 8) (s : State),
    let byte := tblByte s.current.tbl
    let good := fun k => (byte k).getLsbD 7 = true ∨ (byte k).toNat % 128 < 16
    let entry := fun k =>
      if (byte k).getLsbD 7 then Entry.zero else .lane ((if k < 16 then 0 else 16) + (byte k).toNat % 128)
    (tvec = false ∨ tebits ≠ 8 → TakesFault (.bshufc tlen tvec tebits) s .tblForm 0) ∧
    (tvec = true → tebits = 8 → tlen ≠ 16 → tlen ≠ 32 → TakesFault (.bshufc tlen tvec tebits) s .tblLen 0) ∧
    (tvec = true → tebits = 8 → tlen = 16 ∨ tlen = 32 → (∀ k < tlen.toNat, good k) →
      Completes (.bshufc tlen tvec tebits) s (maskOf tlen.toNat entry)) ∧
    (tvec = true → tebits = 8 → tlen = 16 ∨ tlen = 32 → ∀ p < tlen.toNat, ¬ good p → (∀ k < p, good k) →
      TakesFault (.bshufc tlen tvec tebits) s .tblIndex (BitVec.ofNat 8 p))

/-- BSHUFR, from any state: a length other than 16 or 32 takes Fault(TBL_LEN, 0); else a first entry, at position p, with
bit 7 clear and the low seven bits 16 or more takes Fault(TBL_INDEX, p); else the operation completes, entry k the
zero sentinel where bit 7 of byte k is set and otherwise its low seven bits within its own 16-byte half (R150, R151,
R153). -/
def Obligations.BshufrDecodesItsTableOrFaults : Prop :=
  ∀ (tlen : BitVec 6) (s : State),
    let byte := tblByte s.current.tbl
    let good := fun k => (byte k).getLsbD 7 = true ∨ (byte k).toNat % 128 < 16
    let entry := fun k =>
      if (byte k).getLsbD 7 then Entry.zero else .lane ((if k < 16 then 0 else 16) + (byte k).toNat % 128)
    (tlen ≠ 16 → tlen ≠ 32 → TakesFault (.bshufr tlen) s .tblLen 0) ∧
    (tlen = 16 ∨ tlen = 32 → (∀ k < tlen.toNat, good k) → Completes (.bshufr tlen) s (maskOf tlen.toNat entry)) ∧
    (tlen = 16 ∨ tlen = 32 → ∀ p < tlen.toNat, ¬ good p → (∀ k < p, good k) →
      TakesFault (.bshufr tlen) s .tblIndex (BitVec.ofNat 8 p))

/-- BLEND, in every shape the build admits and with every immediate, completes: lane k reads lane k of source 2 where bit
k of IMM is 1 and of source 1 where it is 0, and a bit at or above 32 reads 0 (R170, R80). -/
def Obligations.BlendAnswersItsSelectBits : Prop :=
  ∀ (vb : VecWidth) (eb : EltWidth) (imm : Imm) (s : State), s.build.admits vb = true →
    let n := (geometry vb eb).n
    Completes (.blend vb eb imm) s
      (maskOf n fun k => if imm.toNat / 2 ^ k % 2 = 1 then .lane (n + k) else .lane k) ∧
    ∀ k, 32 ≤ k → imm.toNat / 2 ^ k % 2 = 0

/-- From every state, every instruction answers a next state (R98): RSPV is 1, RSP is the row of R92 for the instruction's
outcome, the fault record is written exactly when the outcome is a fault (R203) and unchanged otherwise (R205), and
the request, the channel, the history and the build are unchanged: the frame of all fifteen operations. -/
def Obligations.EveryOperationEndsInItsOutcome : Prop :=
  ∀ (i : Instr) (s : State), ∃ t, exec i s = .next t ∧ t.rspv = true ∧
    Answers s.build (outcome s.build s.current.tbl i) t.rsp ∧ Frame s t ∧
    match outcome s.build s.current.tbl i with
    | .fault c x => t.halted = true ∧ t.faultCause = c ∧ t.faultInfo = x
    | .ok _ => SameRecord s t
    | .empty => SameRecord s t

/-- Whenever the outcome of an instruction is OK(M), the length of M is N for an operation that reads the shape, 4 for
INSERT and PERMQ, and TLEN, which is then 16 or 32, for BSHUFC and BSHUFR (R94). -/
def Obligations.MaskLengthIsTheLaneCount : Prop :=
  ∀ (b : Build) (tbl : Vector TblEntry Config.maxTbl) (i : Instr) (M : List Entry),
    outcome b tbl i = .ok M → M.length = maskLength i ∧ (i.op.family = .byteTable → M.length = 16 ∨ M.length = 32)

/-- Whenever the outcome of an instruction is OK(M), every entry of M is the zero sentinel or an index below 2|M|; for
BSHUFC and BSHUFR below |M|, so source 1 alone is read (R95). -/
def Obligations.MaskIndicesStayInTheSources : Prop :=
  ∀ (b : Build) (tbl : Vector TblEntry Config.maxTbl) (i : Instr) (M : List Entry),
    outcome b tbl i = .ok M → ∀ e ∈ M, e.below (2 * M.length) ∧ (i.op.family = .byteTable → e.below M.length)

/-- Whenever the outcome of an instruction is OK(M), every entry of M names a lane below |M| of source 1 (an index below
|M|) or of source 2 (|M| and above), and only the zero sentinel names none; BSHUFC and BSHUFR read source 1 alone
(R83). -/
def Obligations.MaskEntriesNameSourceLanes : Prop :=
  ∀ (b : Build) (tbl : Vector TblEntry Config.maxTbl) (i : Instr) (M : List Entry), outcome b tbl i = .ok M → ∀ e ∈ M,
    (e.source M.length = none ↔ e = .zero) ∧
    ∀ k j, e.source M.length = some (k, j) → j < M.length ∧
      (k = 1 ∧ e = .lane j ∨ k = 2 ∧ e = .lane (M.length + j) ∧ i.op.family ≠ .byteTable)

/-- Whenever the outcome of a request is OK(M), every entry e of M has a byte from which the tag of bit 7 gives e back: an
index has bit 7 clear, and a byte with bit 7 set is 0xFF, the zero sentinel (R82). -/
def Obligations.MaskEntriesAreTagged : Prop :=
  ∀ (b : Build) (r : Request) (M : List Entry), requestOutcome b r = .ok M → ∀ e ∈ M,
    Entry.ofByte e.toByte = e ∧ (e.toByte.getLsbD 7 = true ↔ e.toByte = 0xFF) ∧ (e.toByte = 0xFF ↔ e = .zero)

/-- Whenever the outcome of an instruction is Fault(c, x), c is a cause whose row of R201 names the operation, and x is 0
except that TBL_INDEX carries a table position below TLEN and ALIGN_RANGE a mask position below N. In particular
INSERT and PERMQ never fault, and BLEND only with BAD_SHAPE. -/
def Obligations.FaultCausesByOperation : Prop :=
  ∀ (b : Build) (tbl : Vector TblEntry Config.maxTbl) (i : Instr) (c : Cause) (x : Byte), outcome b tbl i = .fault c x →
    (c = .badShape ∧ i.op.readsShape = true ∧ x = 0) ∨
    (c = .shapePrecond ∧ i.op.readsShape = true ∧ i.op ≠ .align ∧ i.op ≠ .blend ∧ x = 0) ∨
    (c = .tblForm ∧ i.op = .bshufc ∧ x = 0) ∨
    (c = .tblLen ∧ i.op.family = .byteTable ∧ x = 0) ∨
    (c = .tblIndex ∧ i.op.family = .byteTable ∧ x.toNat < maskLength i) ∨
    (c = .alignRange ∧ i.op = .align ∧ x.toNat < maskLength i)

/-- The outcome of a request is EMPTY exactly when it is a PERM2X128 command of a shape the build admits with IMM bit 3 or
bit 7 set: BAD_SHAPE comes before EMPTY, and EMPTY before SHAPE_PRECOND (R205, R109, R202). -/
def Obligations.OnlyPerm2x128AnswersEmpty : Prop :=
  ∀ (b : Build) (r : Request), requestOutcome b r = .empty ↔
    ∃ vb eb sel0 z0 sel1 z1, decode r.cmd = .ok (.perm2x128 vb eb sel0 z0 sel1 z1) ∧ b.admits vb = true ∧
      ((cmdImm r.cmd).getLsbD 3 = true ∨ (cmdImm r.cmd).getLsbD 7 = true)

/-- Two requests with the same OP and clear reserved fields have the same outcome, in either build, when they agree on
what the row of R69 for that operation lists: VB and EB for the operations that read the shape; IMM bits 7:0 for
INSERT, PERMHW, PERMLW and PERMQ, all of IMM for ALIGN, PERMI and SHUFP, bits 7, 5:4, 3 and 1:0 for PERM2X128, bits
N-1:0 for BLEND; TLEN, TVEC and TEBITS for BSHUFC and TLEN for BSHUFR; bits 7:0 of the table entries below TLEN for
both. Every other field may differ. -/
def Obligations.IgnoredFieldsDoNotReachTheOutcome : Prop :=
  ∀ (b : Build) (o : Op) (r r' : Request), ReadsTheSame o r r' → requestOutcome b r' = requestOutcome b r

/-- For every response p that answers a request: RSPH bits 1:0 are 0 for OK, 1 for EMPTY and 2 for FAULT, bits 7:2, 15 and
23:20 are 0, LEN in 14:8 is the mask's length for OK, at most MAX_OUT, and 0 otherwise, CAUSE in 19:16 and INFO in
31:24 are the fault's for FAULT and 0 otherwise; and MASKBUS entries 0 to LEN-1 are the mask's for OK (R84, R92). -/
def Obligations.ResponseHeaderLayout : Prop :=
  ∀ (b : Build) (r : Request) (p : Response), Answers b (requestOutcome b r) p →
    (rsph p).extractLsb' 2 6 = 0 ∧ (rsph p).extractLsb' 15 1 = 0 ∧ (rsph p).extractLsb' 20 4 = 0 ∧
    match requestOutcome b r with
    | .ok M => (rsph p).extractLsb' 0 2 = 0 ∧ ((rsph p).extractLsb' 8 7).toNat = M.length ∧ M.length ≤ Config.maxOut b ∧
        (rsph p).extractLsb' 16 4 = 0 ∧ (rsph p).extractLsb' 24 8 = 0 ∧
        ∀ k < M.length, (maskBus b p).extractLsb' (8 * k) 8 = ((M.map Entry.toByte).getD k 0)
    | .empty => (rsph p).extractLsb' 0 2 = 1 ∧ (rsph p).extractLsb' 8 7 = 0 ∧ (rsph p).extractLsb' 16 4 = 0 ∧
        (rsph p).extractLsb' 24 8 = 0
    | .fault c x => (rsph p).extractLsb' 0 2 = 2 ∧ (rsph p).extractLsb' 8 7 = 0 ∧ (rsph p).extractLsb' 16 4 = causeCode c ∧
        (rsph p).extractLsb' 24 8 = x

/-- In every state STS bit 0 is HALTED, bit 1 is RSPV, bits 3:2 read 0, bits 7:4 are FAULT_CAUSE's code, which is 0 to 8,
and bits 15:8 are FAULT_INFO; in every state that meets the invariant INFO is 0 to MAX_OUT - 1 (R27). -/
def Obligations.StatusViewLayout : Prop :=
  ∀ s : State, (sts s).getLsbD 0 = s.halted ∧ (sts s).getLsbD 1 = s.rspv ∧ (sts s).extractLsb' 2 2 = 0 ∧
    (sts s).extractLsb' 4 4 = causeCode s.faultCause ∧ ((sts s).extractLsb' 4 4).toNat ≤ 8 ∧
    (sts s).extractLsb' 8 8 = s.faultInfo ∧ (Inv s → ((sts s).extractLsb' 8 8).toNat ≤ Config.maxOut s.build - 1)

/-- On MASKBUS, for a mask array of MAX_OUT entries, entry k is bits 8k+7 to 8k, and on TBLBUS table entry k is bits
64k+63 to 64k: little-endian entry order (R43). -/
def Obligations.BusesPackEntriesLowFirst : Prop :=
  (∀ (b : Build) (p : Response) (k : Nat), p.mask.length = Config.maxOut b → k < Config.maxOut b →
    (maskBus b p).extractLsb' (8 * k) 8 = p.mask.getD k 0) ∧
  ∀ (r : Request) (k : Nat), k < 32 → (tblBus r).extractLsb' (64 * k) 64 = tblEntry r.tbl k

/-- When reset is not asserted, the block is neither halted nor holding a response, the caller presents request r and
keeps an earlier one if it waited, and the word of r decodes to i, then step is exec of i in the state that has used
up the pins and latched r (R90, R91). -/
def Obligations.StepRunsTheDecodedInstruction : Prop :=
  ∀ (s : State) (r : Request) (i : Instr),
    s.pins.rst = false → s.pins.req = some r → s.halted = false → s.rspv = false →
    keepsRequest s.waiting s.pins.req = true →
    decode r.cmd = .ok i → step s = exec i ((s.sample s.pins).latch r)

/-- When reset is not asserted, HALTED = 0, RSPV = 0 and the caller presents request r, the step accepts it: RSPV becomes
1, RSP the response R92 gives for what the block computes from r, the request leaves the channel, and, when the
outcome is a fault, HALTED, FAULT_CAUSE and FAULT_INFO are written; otherwise they keep their values. It happens for
every word, one that is no instruction included. A step accepts nothing in any other state, and a request presented
then stays with the caller (R90, R92). The fields that record the request and the history are the model's own (log
entry 3). -/
def Obligations.AcceptHoldsTheAnswer : Prop :=
  (∀ (s : State) (r : Request),
    s.pins.rst = false → s.pins.req = some r → s.halted = false → s.rspv = false →
    keepsRequest s.waiting s.pins.req = true →
    ∃ t, step s = .next t ∧ t.rspv = true ∧ Answers s.build (requestOutcome s.build r) t.rsp ∧
      t.build = s.build ∧ t.current = r ∧ t.waiting = none ∧ t.inputs = s.inputs.tail ∧
      t.history = .accepted r :: s.history ∧
      match requestOutcome s.build r with
      | .fault c x => t.halted = true ∧ t.faultCause = c ∧ t.faultInfo = x
      | .ok _ => SameRecord s t
      | .empty => SameRecord s t) ∧
  ∀ (s t : State), step s = .next t →
    ¬ (s.pins.rst = false ∧ s.halted = false ∧ s.rspv = false ∧ s.pins.req ≠ none) →
    acceptedRequests t.history = acceptedRequests s.history ∧ t.waiting = s.pins.req

/-- When an accepted request's outcome is Fault(c, x), the same step holds the response with STATUS = FAULT, LEN = 0,
CAUSE = c and INFO = x, sets RSPV and HALTED, and writes FAULT_CAUSE and FAULT_INFO. From then on, in every state that
steps without reset reach, the record is the same, the request channel is not ready, nothing has been accepted since,
the block is stuck once the response is taken, and a request presented waits with the caller at the next step (R203). -/
def Obligations.FaultEntryHaltsUntilReset : Prop :=
  ∀ (s : State) (r : Request) (c : Cause) (x : Byte),
    s.pins.rst = false → s.pins.req = some r → s.halted = false → s.rspv = false →
    keepsRequest s.waiting s.pins.req = true →
    requestOutcome s.build r = .fault c x →
    ∃ t, step s = .next t ∧ t.rsp.status = .fault ∧ t.rsp.len = 0 ∧ t.rsp.cause = c ∧ t.rsp.info = x ∧ t.rspv = true ∧
      t.halted = true ∧ t.faultCause = c ∧ t.faultInfo = x ∧
      ∀ u, RunsWithoutReset t u →
        SameRecord t u ∧ (∀ rst, u.reqReady rst = false) ∧ acceptedRequests u.history = acceptedRequests t.history ∧
        (u.rspv = false → u.stuck = true) ∧ ∀ v, u.pins.rst = false → step u = .next v → v.waiting = u.pins.req

/-- When reset is not asserted, RSPV = 1 and the caller takes the response, the step delivers RSP as it stands, clears
RSPV, and leaves the fault record, RSP and the build as they are; a request presented at the same step stays with the
caller. A step delivers nothing in any other state (R93). -/
def Obligations.DeliverHandsOverTheResponse : Prop :=
  (∀ s : State, s.pins.rst = false → s.rspv = true → s.pins.rspReady = true → keepsRequest s.waiting s.pins.req = true →
    ∃ t, step s = .next t ∧ t.rspv = false ∧ SameRecord s t ∧ t.rsp = s.rsp ∧ t.build = s.build ∧ t.current = s.current ∧
      t.history = .delivered s.current s.rsp :: s.history ∧ t.waiting = s.pins.req ∧ t.inputs = s.inputs.tail) ∧
  ∀ (s t : State), step s = .next t → ¬ (s.pins.rst = false ∧ s.rspv = true ∧ s.pins.rspReady = true) →
    answeredRequests t.history = answeredRequests s.history

/-- While rst is asserted a step leaves HALTED = 0, FAULT_CAUSE and FAULT_INFO 0, RSPV = 0 and STS = 0x0000, whatever the
block held: a held response is lost and never delivered, a request presented stays with the caller and is accepted by
the next step that presents it with rst released, and no response is produced (R241, R31, R32). That one step with rst
asserted clears the record at once, where R240 says the values hold when rst is released, and that a request must be
kept while rst is asserted too, are the model's reading (log entry 6). -/
def Obligations.ResetStepClearsTheRecord : Prop :=
  ∀ s : State, s.pins.rst = true → keepsRequest s.waiting s.pins.req = true →
    ∃ t, step s = .next t ∧ t.halted = false ∧ t.faultCause = .none ∧ t.faultInfo = 0 ∧ t.rspv = false ∧ sts t = 0x0000 ∧
      t.history = .reset :: s.history ∧ t.waiting = s.pins.req ∧ t.inputs = s.inputs.tail ∧ t.build = s.build ∧
      ∀ r, s.pins.req = some r → t.pins.rst = false → t.pins.req = some r →
        ∃ u, step t = .next u ∧ u.history = .accepted r :: .reset :: s.history

/-- When reset is not asserted, no response is taken, and no request is presented or the block is halted or holds a
response, the block takes no step: its record is unchanged, nothing is accepted or delivered, and a request presented
waits. The one case left out, a request that waits on a halted block with no pins to come, is the stop of
StepStopsOnlyWhereTheSpecSaysSo (R90, R246, R247). -/
def Obligations.IdleStepLeavesTheBlock : Prop :=
  ∀ s : State, s.pins.rst = false → ¬ (s.rspv = true ∧ s.pins.rspReady = true) →
    s.pins.req = none ∨ s.halted = true ∨ s.rspv = true →
    keepsRequest s.waiting s.pins.req = true → s.waitsForEver s.pins = false →
    ∃ t, step s = .next t ∧ SameBlock s t ∧ t.current = s.current ∧ t.history = s.history ∧ t.waiting = s.pins.req ∧
      t.inputs = s.inputs.tail

/-- A step is refused exactly when the caller does not keep a request that waits (R250), and stops as stuck exactly when
the caller keeps it, reset is not asserted, the block is halted with its response taken, a request is presented and no
pins are left to come (R247, R99). In every other state it answers a next state. That pins can run out is the model's
choice (log entry 4). -/
def Obligations.StepStopsOnlyWhereTheSpecSaysSo : Prop :=
  ∀ s : State,
    (∀ q, step s = .refused q ↔ q = .unstableRequest ∧ keepsRequest s.waiting s.pins.req = false) ∧
    (∀ f, step s = .fault f ↔ f = .stuckHalted ∧ keepsRequest s.waiting s.pins.req = true ∧ s.pins.rst = false ∧
      s.waitsForEver s.pins = true)

/-- If a step from s answers next with request r presented while the channel was not ready, then the step after it is
refused unless r is presented again, unchanged (R250). -/
def Obligations.WaitingRequestMustBeKept : Prop :=
  ∀ (s t : State) (r : Request), step s = .next t → s.pins.req = some r → s.reqReady s.pins.rst = false →
    t.pins.req ≠ some r → step t = .refused .unstableRequest

/-- If a step sets HALTED, it accepted a request whose outcome is a fault and recorded that fault; if a step clears
HALTED, reset was asserted; and an accepted fault does set it (R24). -/
def Obligations.HaltedIsWrittenByFaultAndResetOnly : Prop :=
  ∀ s t : State, step s = .next t →
    (s.halted = false → t.halted = true → ∃ r c x, s.pins.req = some r ∧ s.pins.rst = false ∧ s.rspv = false ∧
      t.history = .accepted r :: s.history ∧ requestOutcome s.build r = .fault c x ∧ t.faultCause = c ∧ t.faultInfo = x) ∧
    (s.halted = true → t.halted = false → s.pins.rst = true) ∧
    (∀ r c x, t.history = .accepted r :: s.history → requestOutcome s.build r = .fault c x → t.halted = true)

/-- A step from a halted block without reset accepts no request, keeps HALTED, FAULT_CAUSE and FAULT_INFO, and may deliver
only the response already held, after which RSPV stays 0: the first fault's record is never overwritten (R24, R25,
R203, R206). -/
def Obligations.HaltedBlockKeepsItsRecord : Prop :=
  ∀ s t : State, s.halted = true → s.pins.rst = false → step s = .next t →
    SameRecord s t ∧ t.rsp = s.rsp ∧ t.current = s.current ∧ acceptedRequests t.history = acceptedRequests s.history ∧
    (s.rspv = false → t.rspv = false ∧ t.history = s.history)

/-- Two states of the same build, whatever happened in them before, that accept the same request, or two requests of one
operation that agree on the command fields and table entries it reads (R69), hold the same response header and the
same mask entries below LEN, and record the same fault if there is one (R96). -/
def Obligations.AnswerDependsOnTheRequestAlone : Prop :=
  ∀ (s s' : State) (r r' : Request), s.build = s'.build → (r' = r ∨ ∃ o, ReadsTheSame o r r') →
    s.pins.rst = false → s.pins.req = some r → s.halted = false → s.rspv = false →
    keepsRequest s.waiting s.pins.req = true →
    s'.pins.rst = false → s'.pins.req = some r' → s'.halted = false → s'.rspv = false →
    keepsRequest s'.waiting s'.pins.req = true →
    ∃ t t', step s = .next t ∧ step s' = .next t' ∧ SameAnswer t.rsp t'.rsp ∧ t.halted = t'.halted ∧
      (t.halted = true → t.faultCause = t'.faultCause ∧ t.faultInfo = t'.faultInfo)

/-- A step from a stuck state (HALTED = 1, RSPV = 0) either is a reset, after which the state is not stuck, or leaves the
block, the history and the stuck state as they are. A step without reset from a quiescent state (RSPV = 0, no request
presented), in which no request waited, answers a next state in which the block and the history are unchanged (R99,
R206). -/
def Obligations.OnlyResetLeavesAStuckState : Prop :=
  (∀ s t : State, s.stuck = true → step s = .next t →
    (s.pins.rst = true ∧ t.stuck = false) ∨
    (s.pins.rst = false ∧ t.stuck = true ∧ SameBlock s t ∧ t.history = s.history)) ∧
  ∀ s : State, s.quiescent = true → s.pins.rst = false → keepsRequest s.waiting s.pins.req = true →
    ∃ t, step s = .next t ∧ SameBlock s t ∧ t.history = s.history ∧ t.waiting = none

/-- The state right after reset meets the invariant, in the default build and in the other (R23, R31). That RSP holds
zeros there is the model's choice (log entry 5); no clause of the invariant rests on it but the size of the mask
array. -/
def Obligations.ResetStateMeetsTheInvariant : Prop :=
  Inv State.reset ∧ ∀ b, Inv (State.resetOf b)

/-- In the state right after reset HALTED, FAULT_CAUSE, FAULT_INFO and RSPV are 0, STS is 0x0000, the request channel is
ready and no response is offered, and VMAX_BITS is 256, the default (R31, R8). What RSP holds is not stated: the spec
leaves it open. -/
def Obligations.ResetValuesOfTheRecord : Prop :=
  State.reset.halted = false ∧ State.reset.faultCause = .none ∧ causeCode .none = 0 ∧ State.reset.faultInfo = 0 ∧
    State.reset.rspv = false ∧ sts State.reset = 0x0000 ∧ State.reset.reqReady false = true ∧
    State.reset.rspOffered false = false ∧ Config.vmaxBits State.reset.build = 256

/-- If a step from a state that meets the invariant answers next, the next state meets it: the mask array keeps its size,
the fault record is 0 exactly while the block is not halted, INFO stays in range, a held response answers the request
last accepted and is a fault exactly when the block is halted on it, and every response delivered in the whole run
answered the request outstanding. -/
def Obligations.StepKeepsTheInvariant : Prop :=
  ∀ s t : State, Inv s → step s = .next t → Inv t

/-- In every state that meets the invariant, the requests accepted since the last reset are, latest first, the outstanding
one if a response is held, and then exactly those answered; and every response delivered is one R92 allows for what
the block computes from the request it answers. So the n-th response delivered after reset answers the n-th request
accepted after it (R44). -/
def Obligations.ResponsesComeInAcceptanceOrder : Prop :=
  ∀ s : State, Inv s →
    acceptedRequests (sinceReset s.history) =
      (if s.rspv then [s.current] else []) ++ answeredRequests (sinceReset s.history) ∧
    ∀ r p, .delivered r p ∈ s.history → Answers s.build (requestOutcome s.build r) p

/-- From every state, the state in which a command word is placed to be fetched accepts that word at its next step, with a
table of zeros, and holds the response R92 gives for it: no word makes the block stop (R90, R98). How a word comes to
be presented is the model's choice (log entry 4). -/
def Obligations.EveryWordRunsAfterReset : Prop :=
  ∀ (s : State) (nbits w : Nat), ∃ t, step (s.withFetchWord nbits w) = .next t ∧ t.rspv = true ∧
    t.current = ⟨BitVec.ofNat 64 (w % 2 ^ nbits), Vector.replicate 32 0⟩ ∧
    Answers s.build (requestOutcome s.build ⟨BitVec.ofNat 64 (w % 2 ^ nbits), Vector.replicate 32 0⟩) t.rsp

/-- At an edge where rsp_valid and rsp_ready are both 1 the clocked block delivers its response, clearing RSPV, and the
count of cycles since the last accepting edge is at least LAT, which is at least one; at any other edge it delivers
nothing. The count is that: an accepting edge starts it at 1, and every other edge that answers next adds 1 (R249,
R248). That one cycle has passed at the edge after an acceptance is the model's reading (log entry 8). -/
def Obligations.ClockedResponseWaitsForItsLatency : Prop :=
  1 ≤ Config.lat ∧ ∀ c : Clocked, keepsRequest c.st.waiting c.st.pins.req = true →
    (c.rspValid c.st.pins.rst = true → c.st.pins.rspReady = true → Config.lat ≤ c.age ∧
      ∃ d, c.edge = .next d ∧ d.st.rspv = false ∧ d.st.history = .delivered c.st.current c.st.rsp :: c.st.history) ∧
    (¬ (c.rspValid c.st.pins.rst = true ∧ c.st.pins.rspReady = true) → ∀ d, c.edge = .next d →
      answeredRequests d.st.history = answeredRequests c.st.history) ∧
    (c.accepts c.st.pins = true → ∃ d, c.edge = .next d ∧ d.st.rspv = true ∧ d.age = 1) ∧
    (c.accepts c.st.pins = false → ∀ d, c.edge = .next d → d.age = c.age + 1)

/-- From an edge that accepts request r, if the caller keeps rsp_ready at 1 and presents no request and reset is not
asserted for the LAT edges after it, then at the last of those LAT edges a response that answers r is delivered, and
after each edge before it the response is still held (R249, R248; the count of cycles is log entry 8, and that reset
acts only where an edge samples it is log entry 13). -/
def Obligations.ClockedResponseComesAfterLatEdges : Prop :=
  ∀ (c : Clocked) (p : Pins) (r : Request) (rest : List Pins),
    c.st.inputs = p :: (List.replicate Config.lat { rst := false, req := none, rspReady := true } ++ rest) →
    p.req = some r → keepsRequest c.st.waiting p.req = true → c.accepts p = true →
    (∃ d q, Clocked.edges (Config.lat + 1) c = .next d ∧ d.st.rspv = false ∧ d.st.inputs = rest ∧
      d.st.history = .delivered r q :: .accepted r :: c.st.history ∧ Answers c.st.build (requestOutcome c.st.build r) q) ∧
    ∀ k < Config.lat, ∃ d, Clocked.edges (k + 1) c = .next d ∧ d.st.rspv = true ∧ d.st.history = .accepted r :: c.st.history

/-- In every state req_ready is 1 exactly when reset is not asserted, HALTED = 0 and RSPV = 0, and rsp_valid exactly when
reset is not asserted, RSPV = 1 and LAT cycles have passed. At an edge where a request r is presented, kept, and
req_ready is 1, the block accepts r: RSPV becomes 1, RSP answers r, the count of cycles is 1, and req_ready is 0. At
any other edge it accepts nothing. While RSPV = 1 an edge that neither delivers nor resets leaves req_ready at 0
(R249). That rsp_valid is 0 while reset is asserted, and when the first cycle is counted, are the model's reading (log
entry 8), and that reset acts on the state only at an edge is its choice (log entry 13). -/
def Obligations.ClockedAcceptHappensAtAReadyEdge : Prop :=
  ∀ c : Clocked,
    (∀ rst, ((c.signals rst).reqReady = true ↔ rst = false ∧ c.st.halted = false ∧ c.st.rspv = false) ∧
      ((c.signals rst).rspValid = true ↔ rst = false ∧ c.st.rspv = true ∧ Config.lat ≤ c.age)) ∧
    (∀ r, keepsRequest c.st.waiting c.st.pins.req = true → c.st.pins.req = some r →
      (c.signals c.st.pins.rst).reqReady = true →
      ∃ d, c.edge = .next d ∧ d.st.rspv = true ∧ Answers c.st.build (requestOutcome c.st.build r) d.st.rsp ∧
        d.st.current = r ∧ d.st.history = .accepted r :: c.st.history ∧ d.age = 1 ∧ ∀ rst, (d.signals rst).reqReady = false) ∧
    ∀ d, c.edge = .next d →
      (¬ (c.st.pins.req ≠ none ∧ (c.signals c.st.pins.rst).reqReady = true) →
        acceptedRequests d.st.history = acceptedRequests c.st.history) ∧
      (c.st.rspv = true → c.st.pins.rst = false →
        ¬ ((c.signals c.st.pins.rst).rspValid = true ∧ c.st.pins.rspReady = true) → ∀ rst, (d.signals rst).reqReady = false)

/-- From an accepting edge, whatever the caller and the platform drive afterwards (a reset and another request included),
the edges up to LAT - 1 edges after it have delivered nothing (R249, R248; the count of cycles is log entry 8). -/
def Obligations.ClockedBlockNeverAnswersBeforeLat : Prop :=
  ∀ c : Clocked, keepsRequest c.st.waiting c.st.pins.req = true → c.accepts c.st.pins = true →
    ∀ k < Config.lat, ∀ d, Clocked.edges (k + 1) c = .next d →
      answeredRequests d.st.history = answeredRequests c.st.history

/-- If an edge answers next, the same next state is that of a transaction-level step whose pins are the edge's, with the
caller taking a response only if rsp_valid is 1: the clocked block does nothing the transaction level does not (R249,
R248, R7). -/
def Obligations.ClockedEdgeIsTheStepOfWhatTheBlockSees : Prop :=
  ∀ c d : Clocked, c.edge = .next d →
    step { c.st with inputs := { c.st.pins with rspReady := c.st.pins.rspReady && c.rspValid c.st.pins.rst } :: c.st.inputs.tail } =
      .next d.st

/-- For every word that matches the row of MOVHL, MOVLH, ALIGN, PERMI, SHUFP, UNPCKH, UNPCKL, BLEND, BSHUFC or BSHUFR, the
decoder reads that operation on the bits R60 gives its fields: VB in 9:8, EB in 11:10, TLEN in 21:16, TVEC in 22,
TEBITS in 31:24, IMM in 63:32, the VB codes naming 64, 128, 256 and 512 bits (R62) and the EB codes 8, 16, 32 and 64
(R63); no field the operation ignores (R69) reaches the instruction. INSERT, PERMQ, PERMHW, PERMLW and PERM2X128 have
it in the statements of their masks. -/
def Obligations.CommandFieldsReachTheirOperands : Prop :=
  [0, 1, 2, 3].map (fun code => totalBits (vecWidthOfCode code)) = [64, 128, 256, 512] ∧
  [0, 1, 2, 3].map (fun code => eltBits (eltWidthOfCode code)) = [8, 16, 32, 64] ∧
  ∀ c : Cmd,
    let vb := vecWidthOfCode (c.extractLsb' 8 2)
    let eb := eltWidthOfCode (c.extractLsb' 10 2)
    let imm := c.extractLsb' 32 32
    let row := c &&& 0x80F0FF#64
    (row = 0x02 → decode c = .ok (.movhl vb eb)) ∧ (row = 0x03 → decode c = .ok (.movlh vb eb)) ∧
    (row = 0x04 → decode c = .ok (.align vb eb imm)) ∧ (row = 0x05 → decode c = .ok (.permi vb eb imm)) ∧
    (row = 0x06 → decode c = .ok (.shufp vb eb imm)) ∧ (row = 0x09 → decode c = .ok (.unpckh vb eb)) ∧
    (row = 0x0A → decode c = .ok (.unpckl vb eb)) ∧ (row = 0x0E → decode c = .ok (.blend vb eb imm)) ∧
    (row = 0x0C → decode c = .ok (.bshufc (c.extractLsb' 16 6) (c.getLsbD 22) (c.extractLsb' 24 8))) ∧
    (row = 0x0D → decode c = .ok (.bshufr (c.extractLsb' 16 6)))
end

