-- ==== Sys2Proof/Laws/State.lean ====
section
/-!
SUPPORT. One lemma per field of `State` and named update of it, each true by unfolding the update, so that no later proof
unfolds a record update.
-/

namespace Sys2Proof.Machine

/-! ## `State.hold` -/

@[simp] theorem State.hold_halted (s : State) (p : Response) : (s.hold p).halted = s.halted := rfl
@[simp] theorem State.hold_faultCause (s : State) (p : Response) : (s.hold p).faultCause = s.faultCause := rfl
@[simp] theorem State.hold_faultInfo (s : State) (p : Response) : (s.hold p).faultInfo = s.faultInfo := rfl
@[simp] theorem State.hold_rspv (s : State) (p : Response) : (s.hold p).rspv = true := rfl
@[simp] theorem State.hold_rsp (s : State) (p : Response) : (s.hold p).rsp = p := rfl
@[simp] theorem State.hold_build (s : State) (p : Response) : (s.hold p).build = s.build := rfl
@[simp] theorem State.hold_current (s : State) (p : Response) : (s.hold p).current = s.current := rfl
@[simp] theorem State.hold_waiting (s : State) (p : Response) : (s.hold p).waiting = s.waiting := rfl
@[simp] theorem State.hold_inputs (s : State) (p : Response) : (s.hold p).inputs = s.inputs := rfl
@[simp] theorem State.hold_history (s : State) (p : Response) : (s.hold p).history = s.history := rfl
@[simp] theorem State.hold_writes (s : State) (p : Response) : (s.hold p).writes = s.writes + 1 := rfl

/-! ## `State.enterFault` -/

@[simp] theorem State.enterFault_halted (s : State) (c : Cause) (x : Byte) : (s.enterFault c x).halted = true := rfl
@[simp] theorem State.enterFault_faultCause (s : State) (c : Cause) (x : Byte) : (s.enterFault c x).faultCause = c := rfl
@[simp] theorem State.enterFault_faultInfo (s : State) (c : Cause) (x : Byte) : (s.enterFault c x).faultInfo = x := rfl
@[simp] theorem State.enterFault_rspv (s : State) (c : Cause) (x : Byte) : (s.enterFault c x).rspv = true := rfl
@[simp] theorem State.enterFault_rsp (s : State) (c : Cause) (x : Byte) : (s.enterFault c x).rsp = faultResponse s.build s.writes c x := rfl
@[simp] theorem State.enterFault_build (s : State) (c : Cause) (x : Byte) : (s.enterFault c x).build = s.build := rfl
@[simp] theorem State.enterFault_current (s : State) (c : Cause) (x : Byte) : (s.enterFault c x).current = s.current := rfl
@[simp] theorem State.enterFault_waiting (s : State) (c : Cause) (x : Byte) : (s.enterFault c x).waiting = s.waiting := rfl
@[simp] theorem State.enterFault_inputs (s : State) (c : Cause) (x : Byte) : (s.enterFault c x).inputs = s.inputs := rfl
@[simp] theorem State.enterFault_history (s : State) (c : Cause) (x : Byte) : (s.enterFault c x).history = s.history := rfl
@[simp] theorem State.enterFault_writes (s : State) (c : Cause) (x : Byte) : (s.enterFault c x).writes = s.writes + 1 := rfl

/-! ## `State.resetBlock` -/

@[simp] theorem State.resetBlock_halted (s : State) : (s.resetBlock).halted = false := rfl
@[simp] theorem State.resetBlock_faultCause (s : State) : (s.resetBlock).faultCause = .none := rfl
@[simp] theorem State.resetBlock_faultInfo (s : State) : (s.resetBlock).faultInfo = 0 := rfl
@[simp] theorem State.resetBlock_rspv (s : State) : (s.resetBlock).rspv = false := rfl
@[simp] theorem State.resetBlock_rsp (s : State) : (s.resetBlock).rsp = freeResponse s.build s.writes := rfl
@[simp] theorem State.resetBlock_build (s : State) : (s.resetBlock).build = s.build := rfl
@[simp] theorem State.resetBlock_current (s : State) : (s.resetBlock).current = s.current := rfl
@[simp] theorem State.resetBlock_waiting (s : State) : (s.resetBlock).waiting = s.waiting := rfl
@[simp] theorem State.resetBlock_inputs (s : State) : (s.resetBlock).inputs = s.inputs := rfl
@[simp] theorem State.resetBlock_history (s : State) : (s.resetBlock).history = .reset :: s.history := rfl
@[simp] theorem State.resetBlock_writes (s : State) : (s.resetBlock).writes = s.writes + 1 := rfl

/-! ## `State.sample` -/

@[simp] theorem State.sample_halted (s : State) (p : Pins) : (s.sample p).halted = s.halted := rfl
@[simp] theorem State.sample_faultCause (s : State) (p : Pins) : (s.sample p).faultCause = s.faultCause := rfl
@[simp] theorem State.sample_faultInfo (s : State) (p : Pins) : (s.sample p).faultInfo = s.faultInfo := rfl
@[simp] theorem State.sample_rspv (s : State) (p : Pins) : (s.sample p).rspv = s.rspv := rfl
@[simp] theorem State.sample_rsp (s : State) (p : Pins) : (s.sample p).rsp = s.rsp := rfl
@[simp] theorem State.sample_build (s : State) (p : Pins) : (s.sample p).build = s.build := rfl
@[simp] theorem State.sample_current (s : State) (p : Pins) : (s.sample p).current = s.current := rfl
@[simp] theorem State.sample_waiting (s : State) (p : Pins) : (s.sample p).waiting = p.req := rfl
@[simp] theorem State.sample_inputs (s : State) (p : Pins) : (s.sample p).inputs = s.inputs.tail := rfl
@[simp] theorem State.sample_history (s : State) (p : Pins) : (s.sample p).history = s.history := rfl
@[simp] theorem State.sample_writes (s : State) (p : Pins) : (s.sample p).writes = s.writes := rfl

/-! ## `State.latch` -/

@[simp] theorem State.latch_halted (s : State) (r : Request) : (s.latch r).halted = s.halted := rfl
@[simp] theorem State.latch_faultCause (s : State) (r : Request) : (s.latch r).faultCause = s.faultCause := rfl
@[simp] theorem State.latch_faultInfo (s : State) (r : Request) : (s.latch r).faultInfo = s.faultInfo := rfl
@[simp] theorem State.latch_rspv (s : State) (r : Request) : (s.latch r).rspv = s.rspv := rfl
@[simp] theorem State.latch_rsp (s : State) (r : Request) : (s.latch r).rsp = s.rsp := rfl
@[simp] theorem State.latch_build (s : State) (r : Request) : (s.latch r).build = s.build := rfl
@[simp] theorem State.latch_current (s : State) (r : Request) : (s.latch r).current = r := rfl
@[simp] theorem State.latch_waiting (s : State) (r : Request) : (s.latch r).waiting = none := rfl
@[simp] theorem State.latch_inputs (s : State) (r : Request) : (s.latch r).inputs = s.inputs := rfl
@[simp] theorem State.latch_history (s : State) (r : Request) : (s.latch r).history = .accepted r :: s.history := rfl
@[simp] theorem State.latch_writes (s : State) (r : Request) : (s.latch r).writes = s.writes := rfl

/-! ## `State.deliver` -/

@[simp] theorem State.deliver_halted (s : State) : (s.deliver).halted = s.halted := rfl
@[simp] theorem State.deliver_faultCause (s : State) : (s.deliver).faultCause = s.faultCause := rfl
@[simp] theorem State.deliver_faultInfo (s : State) : (s.deliver).faultInfo = s.faultInfo := rfl
@[simp] theorem State.deliver_rspv (s : State) : (s.deliver).rspv = false := rfl
@[simp] theorem State.deliver_rsp (s : State) : (s.deliver).rsp = s.rsp := rfl
@[simp] theorem State.deliver_build (s : State) : (s.deliver).build = s.build := rfl
@[simp] theorem State.deliver_current (s : State) : (s.deliver).current = s.current := rfl
@[simp] theorem State.deliver_waiting (s : State) : (s.deliver).waiting = s.waiting := rfl
@[simp] theorem State.deliver_inputs (s : State) : (s.deliver).inputs = s.inputs := rfl
@[simp] theorem State.deliver_history (s : State) : (s.deliver).history = .delivered s.current s.rsp :: s.history := rfl
@[simp] theorem State.deliver_writes (s : State) : (s.deliver).writes = s.writes := rfl

/-! ## `State.present` -/

@[simp] theorem State.present_halted (s : State) (c : Cmd) : (s.present c).halted = false := rfl
@[simp] theorem State.present_faultCause (s : State) (c : Cmd) : (s.present c).faultCause = .none := rfl
@[simp] theorem State.present_faultInfo (s : State) (c : Cmd) : (s.present c).faultInfo = 0 := rfl
@[simp] theorem State.present_rspv (s : State) (c : Cmd) : (s.present c).rspv = false := rfl
@[simp] theorem State.present_rsp (s : State) (c : Cmd) : (s.present c).rsp = s.rsp := rfl
@[simp] theorem State.present_build (s : State) (c : Cmd) : (s.present c).build = s.build := rfl
@[simp] theorem State.present_current (s : State) (c : Cmd) : (s.present c).current = s.current := rfl
@[simp] theorem State.present_waiting (s : State) (c : Cmd) : (s.present c).waiting = none := rfl
@[simp] theorem State.present_inputs (s : State) (c : Cmd) : (s.present c).inputs = { rst := false, req := some { cmd := c, tbl := Request.zero.tbl }, rspReady := false } :: s.inputs := rfl
@[simp] theorem State.present_history (s : State) (c : Cmd) : (s.present c).history = s.history := rfl
@[simp] theorem State.present_writes (s : State) (c : Cmd) : (s.present c).writes = s.writes := rfl

/-! ## `State.respond`, by outcome -/

@[simp] theorem State.respond_ok (s : State) (M : List Entry) :
    s.respond (.ok M) = s.hold (okResponse s.build s.writes M) := rfl

@[simp] theorem State.respond_empty (s : State) : s.respond .empty = s.hold (emptyResponse s.build s.writes) := rfl

@[simp] theorem State.respond_fault (s : State) (c : Cause) (x : Byte) : s.respond (.fault c x) = s.enterFault c x := rfl

end Sys2Proof.Machine
end

