-- ==== Sys2Proof/Laws/Ops.lean ====
section
/-!
SUPPORT. What each shared operation does, said once: the mask array, the end of an operation, the loops of the
pseudocode, the draining of the immediate, and the shape check.
-/

namespace Sys2Proof.Machine

/-! ## Positions -/

@[simp] theorem length_positions (a b : Nat) : (positions a b).length = b - a := by simp [positions]

@[simp] theorem mem_positions {a b i : Nat} : i ∈ positions a b ↔ a ≤ i ∧ i < b := by
  simp [positions, List.mem_range'_1]; omega

theorem positions_zero (n : Nat) : positions 0 n = List.range n := by simp [positions, List.range_eq_range']

/-! ## The mask array -/

theorem maskArray_length {b : Build} {M : List Entry} (n : Nat) (h : M.length ≤ Config.maxOut b) :
    (maskArray b n M).length = Config.maxOut b := by
  simp [maskArray]; omega

theorem maskArray_take (b : Build) (n : Nat) (M : List Entry) :
    (maskArray b n M).take M.length = M.map Entry.toByte := by
  simp [maskArray, List.take_left']

/-! ## The end of an operation -/

/-- A mask fits the mask array of the build. -/
def OpOutcome.Fits (b : Build) : OpOutcome → Prop
  | .ok M => M.length ≤ Config.maxOut b
  | .empty => True
  | .fault _ _ => True

/-- The response an operation writes is one R92 allows for its outcome. -/
theorem respond_answers {s : State} {o : OpOutcome} (h : o.Fits s.build) :
    Answers s.build o (s.respond o).rsp := by
  cases o with
  | ok M => exact ⟨maskArray_length s.writes h, rfl, rfl, rfl, rfl, maskArray_take _ _ _⟩
  | empty => exact ⟨maskArray_length (M := []) s.writes (Nat.zero_le _), rfl, rfl, rfl, rfl⟩
  | fault c x => exact ⟨maskArray_length (M := []) s.writes (Nat.zero_le _), rfl, rfl, rfl, rfl⟩

theorem respond_rspv (s : State) (o : OpOutcome) : (s.respond o).rspv = true := by cases o <;> rfl

/-- The end of an operation writes `RSP`, `RSPV` and the fault record alone. -/
theorem respond_frame (s : State) (o : OpOutcome) : Frame s (s.respond o) := by
  cases o <;> exact ⟨rfl, rfl, rfl, rfl, rfl⟩

/-- Without a fault the fault record stays. -/
theorem respond_record {s : State} {o : OpOutcome} (h : ∀ c x, o ≠ .fault c x) : SameRecord s (s.respond o) := by
  cases o with
  | ok M => exact ⟨rfl, rfl, rfl⟩
  | empty => exact ⟨rfl, rfl, rfl⟩
  | fault c x => exact absurd rfl (h c x)

/-! ## Loops -/

/-- A loop that yields an entry at every position ends in those entries. -/
theorem collect_of_all {cause : Cause} {f : Nat → Option Entry} {g : Nat → Entry} {ps : List Nat} {done : List Entry}
    (h : ∀ p ∈ ps, f p = some (g p)) : collect cause f ps done = .ok (done ++ ps.map g) := by
  induction ps generalizing done with
  | nil => simp [collect]
  | cons p ps ih =>
    have hp := h p (by simp)
    simp [collect, hp, ih fun q hq => h q (by simp [hq])]

/-- A loop faults at the first position that yields no entry. -/
theorem collect_of_first {cause : Cause} {f : Nat → Option Entry} {pre post : List Nat} {p : Nat} {done : List Entry}
    (hpre : ∀ q ∈ pre, (f q).isSome = true) (hp : f p = none) :
    collect cause f (pre ++ p :: post) done = .fault cause (BitVec.ofNat 8 p) := by
  induction pre generalizing done with
  | nil => simp [collect, hp]
  | cons q pre ih =>
    obtain ⟨e, he⟩ := Option.isSome_iff_exists.mp (hpre q (by simp))
    simp [collect, he, ih fun r hr => hpre r (by simp [hr])]

/-- Everything a loop can end in: the entries of all its positions, or the fault at the first that has none. -/
theorem collect_cases (cause : Cause) (f : Nat → Option Entry) (ps : List Nat) (done : List Entry) :
    (∃ es, collect cause f ps done = .ok (done ++ es) ∧ es.length = ps.length ∧
      ∀ e ∈ es, ∃ p ∈ ps, f p = some e) ∨
    ∃ p ∈ ps, f p = none ∧ collect cause f ps done = .fault cause (BitVec.ofNat 8 p) := by
  induction ps generalizing done with
  | nil => exact .inl ⟨[], by simp [collect]⟩
  | cons p ps ih =>
    cases hp : f p with
    | none => exact .inr ⟨p, by simp [collect, hp]⟩
    | some e =>
      rcases ih (done ++ [e]) with ⟨es, h, hl, hm⟩ | ⟨q, hq, hn, h⟩
      · refine .inl ⟨e :: es, by simp [collect, hp, h], by simp [hl], ?_⟩
        intro x hx
        rcases List.mem_cons.mp hx with rfl | hx
        · exact ⟨p, by simp, hp⟩
        · obtain ⟨q, hq, hf⟩ := hm x hx
          exact ⟨q, by simp [hq], hf⟩
      · exact .inr ⟨q, by simp [hq], hn, by simp [collect, hp, h]⟩

/-- The digits a drain takes: digit `j` is `(W div base^j) mod base` (R78). -/
theorem drain_digits (base k w : Nat) : (drain base k w).1 = (List.range k).map fun j => w / base ^ j % base := by
  induction k generalizing w with
  | zero => rfl
  | succ k ih =>
    simp [drain, ih, List.range_succ_eq_map, Nat.pow_succ', Nat.div_div_eq_div_mul]

/-- What a drain leaves of the working immediate. -/
theorem drain_left (base k w : Nat) : (drain base k w).2 = w / base ^ k := by
  induction k generalizing w with
  | zero => simp [drain]
  | succ k ih => simp [drain, ih, Nat.pow_succ', Nat.div_div_eq_div_mul]

@[simp] theorem drain_length (base k w : Nat) : (drain base k w).1.length = k := by simp [drain_digits]

/-- The draining operations answer one entry for each digit they take. -/
theorem drainGroups_length {laneElts : Nat} {imm : Imm} {picks : Nat → List Nat → List Entry}
    (hp : ∀ l digits, (picks l digits).length = digits.length) (left k w : Nat) :
    (drainGroups laneElts imm picks left k w).length = left * laneElts := by
  induction left generalizing k w with
  | zero => simp [drainGroups]
  | succ left ih => simp [drainGroups, ih, hp, Nat.succ_mul, Nat.add_comm]

/-! ## The flat buses -/

theorem packEntries_lt (w : Nat) (l : List (BitVec w)) : packEntries w l < 2 ^ (w * l.length) := by
  induction l with
  | nil => simp [packEntries]
  | cons e l ih =>
    have he := e.isLt
    have hp : 2 ^ (w * (l.length + 1)) = 2 ^ w * 2 ^ (w * l.length) := by rw [← Nat.pow_add]; ring_nf
    simp only [packEntries, List.length_cons, hp]
    nlinarith

/-- Entry `k` of a bus is the bits from `w * k` up (R43). -/
theorem packEntries_get (w : Nat) (l : List (BitVec w)) (k : Nat) (hk : k < l.length) :
    packEntries w l / 2 ^ (w * k) % 2 ^ w = (l[k]).toNat := by
  induction l generalizing k with
  | nil => simp at hk
  | cons e l ih =>
    cases k with
    | zero => simp [packEntries, Nat.mod_eq_of_lt e.isLt]
    | succ k =>
      have hp : 2 ^ (w * (k + 1)) = 2 ^ w * 2 ^ (w * k) := by rw [← Nat.pow_add]; ring_nf
      rw [packEntries, hp, ← Nat.div_div_eq_div_mul, Nat.add_mul_div_left _ _ (by positivity),
        Nat.div_eq_of_lt e.isLt, Nat.zero_add, ih k (by simpa using hk)]
      simp

/-! ## The shape check -/

/-- The width check of the machine is the one `WellFormed.lean` lists. -/
theorem admits_iff (b : Build) (vb : VecWidth) : b.admits vb = true ↔ totalBits vb ≤ Config.vmaxBits b := by
  cases b <;> cases vb <;> decide

theorem readShape_of_admits {b : Build} {vb : VecWidth} (eb : EltWidth) (rule : Geometry → OpOutcome)
    (h : b.admits vb = true) : readShape b vb eb rule = rule (geometry vb eb) := by
  have := (admits_iff b vb).mp h
  simp [readShape]; omega

theorem readShape_of_not_admits {b : Build} {vb : VecWidth} (eb : EltWidth) (rule : Geometry → OpOutcome)
    (h : b.admits vb = false) : readShape b vb eb rule = .fault .badShape 0 := by
  have : ¬ totalBits vb ≤ Config.vmaxBits b := fun hle => by simp [(admits_iff b vb).mpr hle] at h
  simp [readShape]; omega

@[simp] theorem require_true (c : Cause) (o : OpOutcome) : require true c o = o := rfl

@[simp] theorem require_false (c : Cause) (o : OpOutcome) : require false c o = .fault c 0 := rfl

/-- An operation that reads the shape ends in OK only in a shape the build admits, and as its rule does. -/
theorem readShape_ok {b : Build} {vb : VecWidth} {eb : EltWidth} {rule : Geometry → OpOutcome} {M : List Entry}
    (h : readShape b vb eb rule = .ok M) : b.admits vb = true ∧ rule (geometry vb eb) = .ok M := by
  cases hb : b.admits vb with
  | true => exact ⟨rfl, readShape_of_admits eb rule hb ▸ h⟩
  | false => simp [readShape_of_not_admits eb rule hb] at h

/-- An operation that reads the shape faults with BAD_SHAPE, or as its rule does in a shape the build admits. -/
theorem readShape_fault {b : Build} {vb : VecWidth} {eb : EltWidth} {rule : Geometry → OpOutcome} {c : Cause} {x : Byte}
    (h : readShape b vb eb rule = .fault c x) :
    (b.admits vb = false ∧ c = .badShape ∧ x = 0) ∨ (b.admits vb = true ∧ rule (geometry vb eb) = .fault c x) := by
  cases hb : b.admits vb with
  | true => exact .inr ⟨rfl, readShape_of_admits eb rule hb ▸ h⟩
  | false =>
    rw [readShape_of_not_admits eb rule hb] at h
    injection h with hc hx
    exact .inl ⟨rfl, hc.symm, hx.symm⟩

theorem require_ok {c : Bool} {cause : Cause} {o : OpOutcome} {M : List Entry} (h : require c cause o = .ok M) :
    c = true ∧ o = .ok M := by
  cases c <;> simp_all

theorem require_fault {p : Bool} {cause c : Cause} {o : OpOutcome} {x : Byte} (h : require p cause o = .fault c x) :
    (p = false ∧ c = cause ∧ x = 0) ∨ (p = true ∧ o = .fault c x) := by
  cases p with
  | false => injection h with hc hx; exact .inl ⟨rfl, hc.symm, hx.symm⟩
  | true => exact .inr ⟨rfl, h⟩

/-- The lane groups cover the positions. -/
theorem numLanes_mul_laneElts (vb : VecWidth) (eb : EltWidth) :
    (geometry vb eb).numLanes * (geometry vb eb).laneElts = (geometry vb eb).n := by
  cases vb <;> cases eb <;> decide

theorem laneElts_pos (vb : VecWidth) (eb : EltWidth) : 0 < (geometry vb eb).laneElts := by
  cases vb <;> cases eb <;> decide

/-- A shape the build admits has at most `MAX_OUT` elements. -/
theorem n_le_maxOut {b : Build} {vb : VecWidth} (eb : EltWidth) (h : b.admits vb = true) :
    (geometry vb eb).n ≤ Config.maxOut b := by
  revert h; cases b <;> cases vb <;> cases eb <;> decide

end Sys2Proof.Machine
end

