-- ==== Sys2Proof/Laws/Exec.lean ====
section
/-!
SUPPORT. What `exec` does, said once for all fifteen operations.
-/

namespace Sys2Proof.Machine

/-- Every instruction ends by answering its outcome, and in nothing else. -/
theorem exec_eq_respond (i : Instr) (s : State) :
    exec i s = .next (s.respond (outcome s.build s.current.tbl i)) := by cases i <;> rfl

/-- Accept answers the request's outcome, whether or not its word is an instruction. -/
theorem accept_eq_respond (s : State) (r : Request) :
    s.accept r = .next ((s.latch r).respond (requestOutcome s.build r)) := by
  unfold State.accept requestOutcome
  cases decode r.cmd with
  | error e => rfl
  | ok i => exact exec_eq_respond i _

/-- An outcome with a mask that fits completes the instruction. -/
theorem completes_of_outcome {i : Instr} {s : State} {M : List Entry}
    (h : outcome s.build s.current.tbl i = .ok M) (hM : M.length ≤ Config.maxOut s.build) : Completes i s M :=
  ⟨s.respond (.ok M), by rw [exec_eq_respond, h], respond_rspv _ _, respond_answers (o := .ok M) hM,
    respond_record (o := .ok M) (by simp), respond_frame _ _⟩

/-- An EMPTY outcome completes the instruction as EMPTY. -/
theorem completesEmpty_of_outcome {i : Instr} {s : State}
    (h : outcome s.build s.current.tbl i = .empty) : CompletesEmpty i s :=
  ⟨s.respond .empty, by rw [exec_eq_respond, h], respond_rspv _ _, respond_answers (o := .empty) trivial,
    respond_record (o := .empty) (by simp), respond_frame _ _⟩

/-- A fault outcome is a fault taken. -/
theorem takesFault_of_outcome {i : Instr} {s : State} {c : Cause} {x : Byte}
    (h : outcome s.build s.current.tbl i = .fault c x) : TakesFault i s c x :=
  ⟨s.respond (.fault c x), by rw [exec_eq_respond, h], respond_rspv _ _, respond_answers (o := .fault c x) trivial,
    rfl, rfl, rfl, respond_frame _ _⟩

end Sys2Proof.Machine
end

