-- ==== Sys2Proof/Laws/Step.lean ====
section
/-!
SUPPORT. What one step can do, said once: the four transactions, when each happens, and the two stops.
-/

namespace Sys2Proof.Machine

variable {s t : State} {p : Pins}

theorem keepsRequest_iff (w q : Option Request) : keepsRequest w q = true ↔ ∀ r, w = some r → q = some r := by
  cases w <;> simp [keepsRequest]

/-- Reset (R240). -/
theorem transaction_of_reset (hk : keepsRequest s.waiting p.req = true) (hr : p.rst = true) :
    s.transaction p = .next (s.sample p).resetBlock := by
  simp [State.transaction, hk, hr]

/-- Deliver (R93). -/
theorem transaction_of_deliver (hk : keepsRequest s.waiting p.req = true) (hr : p.rst = false) (hv : s.rspv = true)
    (ht : p.rspReady = true) : s.transaction p = .next (s.sample p).deliver := by
  simp [State.transaction, State.rspOffered, hk, hr, hv, ht]

/-- Accept (R90). -/
theorem transaction_of_accept {r : Request} (hk : keepsRequest s.waiting p.req = true) (hr : p.rst = false)
    (hq : p.req = some r) (hh : s.halted = false) (hv : s.rspv = false) :
    s.transaction p = .next (((s.sample p).latch r).respond (requestOutcome s.build r)) := by
  simp [State.transaction, State.rspOffered, State.waitsForEver, State.reqReady, hr, hq, hh, hv,
    accept_eq_respond]
  simp [hq] at hk ⊢
  exact hk

/-- No transaction is enabled: the pins are used up and a request presented waits (R90). -/
theorem transaction_of_idle (hk : keepsRequest s.waiting p.req = true) (hr : p.rst = false)
    (hd : ¬ (s.rspv = true ∧ p.rspReady = true)) (hn : p.req = none ∨ s.halted = true ∨ s.rspv = true)
    (hw : s.waitsForEver p = false) : s.transaction p = .next (s.sample p) := by
  have hd' : (s.rspv && p.rspReady) = false := by simpa using hd
  simp only [State.transaction, State.rspOffered, hk, hr, hw, Bool.not_true, Bool.not_false, Bool.true_and, hd']
  simp only [Bool.false_eq_true, if_false]
  split
  · rename_i r hq
    have : s.reqReady false = false := by
      rcases hn with h | h | h <;> simp_all [State.reqReady]
    simp [this]
  · rfl

/-- A request changed while it waited (R250). -/
theorem transaction_of_unstable (hk : keepsRequest s.waiting p.req = false) : s.transaction p = .refused .unstableRequest := by
  simp [State.transaction, hk]

/-- A request waits for ever (R247). -/
theorem transaction_of_stuck (hk : keepsRequest s.waiting p.req = true) (hr : p.rst = false)
    (hw : s.waitsForEver p = true) : s.transaction p = .fault .stuckHalted := by
  have hv : s.rspv = false := by
    simp [State.waitsForEver] at hw; exact hw.1.1.2
  simp [State.transaction, State.rspOffered, hk, hr, hw, hv]

/-- What a transaction did, if it answered next. -/
inductive Moved (s : State) (p : Pins) (t : State) : Prop where
  | reset (hr : p.rst = true) (ht : t = (s.sample p).resetBlock)
  | deliver (hr : p.rst = false) (hv : s.rspv = true) (hp : p.rspReady = true) (ht : t = (s.sample p).deliver)
  | accept (r : Request) (hr : p.rst = false) (hh : s.halted = false) (hv : s.rspv = false) (hq : p.req = some r)
      (ht : t = ((s.sample p).latch r).respond (requestOutcome s.build r))
  | idle (hr : p.rst = false) (hd : ¬ (s.rspv = true ∧ p.rspReady = true))
      (hn : p.req = none ∨ s.halted = true ∨ s.rspv = true) (ht : t = s.sample p)

/-- Everything a transaction can do. -/
theorem transaction_cases (h : s.transaction p = .next t) : keepsRequest s.waiting p.req = true ∧ Moved s p t := by
  cases hk : keepsRequest s.waiting p.req with
  | false => simp [transaction_of_unstable hk] at h
  | true =>
    refine ⟨rfl, ?_⟩
    cases hr : p.rst with
    | true => rw [transaction_of_reset hk hr] at h; exact .reset hr (by injection h with h; exact h.symm)
    | false =>
      by_cases hd : s.rspv = true ∧ p.rspReady = true
      · rw [transaction_of_deliver hk hr hd.1 hd.2] at h
        exact .deliver hr hd.1 hd.2 (by injection h with h; exact h.symm)
      · by_cases hn : p.req = none ∨ s.halted = true ∨ s.rspv = true
        · cases hw : s.waitsForEver p with
          | true => simp [transaction_of_stuck hk hr hw] at h
          | false =>
            rw [transaction_of_idle hk hr hd hn hw] at h
            exact .idle hr hd hn (by injection h with h; exact h.symm)
        · simp only [not_or, Bool.not_eq_true] at hn
          obtain ⟨r, hq⟩ := Option.ne_none_iff_exists'.mp hn.1
          rw [transaction_of_accept hk hr hq hn.2.1 hn.2.2] at h
          exact .accept r hr hn.2.1 hn.2.2 hq (by injection h with h; exact h.symm)

/-! ## One step: the transaction of the next pins -/

theorem step_of_reset (hk : keepsRequest s.waiting s.pins.req = true) (hr : s.pins.rst = true) :
    step s = .next (s.sample s.pins).resetBlock := transaction_of_reset hk hr

theorem step_of_deliver (hk : keepsRequest s.waiting s.pins.req = true) (hr : s.pins.rst = false) (hv : s.rspv = true)
    (ht : s.pins.rspReady = true) : step s = .next (s.sample s.pins).deliver := transaction_of_deliver hk hr hv ht

theorem step_of_accept {r : Request} (hk : keepsRequest s.waiting s.pins.req = true) (hr : s.pins.rst = false)
    (hq : s.pins.req = some r) (hh : s.halted = false) (hv : s.rspv = false) :
    step s = .next (((s.sample s.pins).latch r).respond (requestOutcome s.build r)) :=
  transaction_of_accept hk hr hq hh hv

theorem step_of_idle (hk : keepsRequest s.waiting s.pins.req = true) (hr : s.pins.rst = false)
    (hd : ¬ (s.rspv = true ∧ s.pins.rspReady = true)) (hn : s.pins.req = none ∨ s.halted = true ∨ s.rspv = true)
    (hw : s.waitsForEver s.pins = false) : step s = .next (s.sample s.pins) := transaction_of_idle hk hr hd hn hw

theorem step_of_unstable (hk : keepsRequest s.waiting s.pins.req = false) : step s = .refused .unstableRequest :=
  transaction_of_unstable hk

theorem step_of_stuck (hk : keepsRequest s.waiting s.pins.req = true) (hr : s.pins.rst = false)
    (hw : s.waitsForEver s.pins = true) : step s = .fault .stuckHalted := transaction_of_stuck hk hr hw

/-- Everything a step can do. -/
theorem step_cases (h : step s = .next t) : keepsRequest s.waiting s.pins.req = true ∧ Moved s s.pins t :=
  transaction_cases h

end Sys2Proof.Machine
end

