-- ==== Sys2Proof/Laws/Clocked.lean ====
section
/-!
SUPPORT. What one rising clock edge can do, said once: its transaction, and the count of cycles since the last acceptance.
-/

namespace Sys2Proof.Machine

variable {c d : Clocked}

theorem accepts_iff {p : Pins} : c.accepts p = true ↔
    p.req.isSome = true ∧ p.rst = false ∧ c.st.halted = false ∧ c.st.rspv = false := by
  simp [Clocked.accepts, State.reqReady, and_assoc]

/-- An edge that answers next makes the transaction of the pins the block sees, and counts. -/
theorem edge_next (h : c.edge = .next d) : c.st.transaction (c.seen c.st.pins) = .next d.st ∧
    d.age = if c.accepts c.st.pins then 1 else c.age + 1 := by
  simp only [Clocked.edge] at h
  split at h <;> simp at h
  subst h
  exact ⟨by assumption, rfl⟩

/-- An edge answers next where its transaction does. -/
theorem edge_of_transaction {t : State} (h : c.st.transaction (c.seen c.st.pins) = .next t) :
    c.edge = .next { st := t, age := if c.accepts c.st.pins then 1 else c.age + 1 } := by
  simp [Clocked.edge, h]

/-- Everything an edge can do. -/
theorem edge_cases (h : c.edge = .next d) : keepsRequest c.st.waiting c.st.pins.req = true ∧
    Moved c.st (c.seen c.st.pins) d.st ∧ d.age = if c.accepts c.st.pins then 1 else c.age + 1 :=
  have ⟨ht, ha⟩ := edge_next h
  ⟨(transaction_cases ht).1, (transaction_cases ht).2, ha⟩

/-- Accept at an edge (R249): the count starts again. -/
theorem edge_of_accept {r : Request} (hk : keepsRequest c.st.waiting c.st.pins.req = true)
    (ha : c.accepts c.st.pins = true) (hq : c.st.pins.req = some r) :
    c.edge = .next { st := ((c.st.sample (c.seen c.st.pins)).latch r).respond (requestOutcome c.st.build r), age := 1 } := by
  obtain ⟨-, hr, hh, hv⟩ := accepts_iff.mp ha
  have ht : c.st.transaction (c.seen c.st.pins) = _ := transaction_of_accept hk hr hq hh hv
  rw [edge_of_transaction ht, if_pos ha]

/-- Edges compose. -/
theorem edges_add {k : Nat} (n : Nat) (h : Clocked.edges k c = .next d) : Clocked.edges (k + n) c = Clocked.edges n d := by
  induction k generalizing c with
  | zero => simp [Clocked.edges] at h; simp [h]
  | succ k ih =>
    rw [Nat.succ_add]
    simp only [Clocked.edges] at h ⊢
    split at h <;> first | exact ih h | cases h

end Sys2Proof.Machine
end

