-- ==== Sys2Proof/Laws/Decode.lean ====
section
/-!
SUPPORT. What each field of an assembled command word reads back, so that no later proof unfolds the word.
-/

namespace Sys2Proof

section
variable (imm : Imm) (tebits : BitVec 8) (tvec : Bool) (tlen : BitVec 6) (eb vb : BitVec 2) (op : BitVec 5)

theorem cmdOp_command : cmdOp (command imm tebits tvec tlen eb vb op) = op := by
  ext i hi; simp only [command, fieldAt, cmdOp]; interval_cases i <;> simp

theorem cmdVb_command : cmdVb (command imm tebits tvec tlen eb vb op) = vb := by
  ext i hi; simp only [command, fieldAt, cmdVb]; interval_cases i <;> simp

theorem cmdEb_command : cmdEb (command imm tebits tvec tlen eb vb op) = eb := by
  ext i hi; simp only [command, fieldAt, cmdEb]; interval_cases i <;> simp

theorem cmdTlen_command : cmdTlen (command imm tebits tvec tlen eb vb op) = tlen := by
  ext i hi; simp only [command, fieldAt, cmdTlen]; interval_cases i <;> simp

theorem cmdTvec_command : cmdTvec (command imm tebits tvec tlen eb vb op) = tvec := by
  simp [command, fieldAt, cmdTvec]

theorem cmdTebits_command : cmdTebits (command imm tebits tvec tlen eb vb op) = tebits := by
  ext i hi; simp only [command, fieldAt, cmdTebits]; interval_cases i <;> simp

theorem cmdImm_command : cmdImm (command imm tebits tvec tlen eb vb op) = imm := by
  ext i hi; simp only [command, fieldAt, cmdImm]; interval_cases i <;> simp

theorem reservedClear_command : reservedClear (command imm tebits tvec tlen eb vb op) = true := by
  have h0 : cmdRsv0 (command imm tebits tvec tlen eb vb op) = 0 := by
    ext i hi; simp only [command, fieldAt, cmdRsv0]; interval_cases i <;> simp
  have h1 : cmdRsv1 (command imm tebits tvec tlen eb vb op) = 0 := by
    ext i hi; simp only [command, fieldAt, cmdRsv1]; interval_cases i <;> simp
  have h2 : cmdRsv2 (command imm tebits tvec tlen eb vb op) = 0 := by
    ext i hi; simp only [command, fieldAt, cmdRsv2]; interval_cases i; simp
  simp [reservedClear, h0, h1, h2]

end

theorem opOfCode_opCode (o : Op) : opOfCode (opCode o) = some o := by cases o <;> rfl

theorem vecWidthOfCode_code (vb : VecWidth) : vecWidthOfCode (vecWidthCode vb) = vb := by cases vb <;> rfl

theorem eltWidthOfCode_code (eb : EltWidth) : eltWidthOfCode (eltWidthCode eb) = eb := by cases eb <;> rfl

/-- An assembled word of operation `o` decodes to that operation's reading of its fields. -/
theorem decode_command (imm : Imm) (tebits : BitVec 8) (tvec : Bool) (tlen : BitVec 6) (eb vb : BitVec 2) (o : Op) :
    decode (command imm tebits tvec tlen eb vb (opCode o)) =
      .ok (instrOf o (command imm tebits tvec tlen eb vb (opCode o))) := by
  simp [decode, cmdOp_command, opOfCode_opCode, reservedClear_command]

/-- The instruction a word decodes to is of the operation its `OP` names. -/
theorem op_instrOf (o : Op) (c : Cmd) : (instrOf o c).op = o := by cases o <;> rfl

/-- A word whose `OP` is that of `o` and whose reserved fields are 0 decodes to `o`'s reading of its fields. -/
theorem decode_of_fields {c : Cmd} {o : Op} (ho : cmdOp c = opCode o) (hr : reservedClear c = true) :
    decode c = .ok (instrOf o c) := by
  simp [decode, ho, opOfCode_opCode, hr]

/-- What a word has at each bit of the mask of spec/opcode_table.json, when it matches a row there. -/
theorem getLsbD_of_row {c : Cmd} {o : Op} (h : c &&& 0x80F0FF#64 = (opCode o).setWidth 64) (k : Nat) :
    (c.getLsbD k && (0x80F0FF#64).getLsbD k) = (decide (k < 64) && (opCode o).getLsbD k) := by
  rw [← BitVec.getLsbD_and, h, BitVec.getLsbD_setWidth]

end Sys2Proof
end

