-- ==== Sys2Proof/Laws/PerInstr.lean ====
section
/-!
SUPPORT. The per-instruction family `OpRow`: the word of an instruction matches its row of spec/opcode_table.json, the mask
0x80F0FF leaving exactly the row's `OP` code (30_encoding.md R68, R70).
-/

namespace Sys2Proof.Laws.OpRow

/-- The word of the instruction, masked with 0x80F0FF, is its row's match. -/
def Statement (i : Instr) : Prop := encode i &&& 0x80F0FF#64 = (opCode i.op).setWidth 64

/-- The mask keeps `OP` and the reserved fields, and `command` has the latter 0. -/
theorem command_masked (imm : Imm) (tebits : BitVec 8) (tvec : Bool) (tlen : BitVec 6) (eb vb : BitVec 2)
    (op : BitVec 5) : command imm tebits tvec tlen eb vb op &&& 0x80F0FF#64 = op.setWidth 64 := by
  ext i hi
  simp only [command, fieldAt, BitVec.getElem_and, BitVec.getElem_setWidth]
  interval_cases i <;> simp

theorem insert (zmask countd counts) : Statement (.insert zmask countd counts) := command_masked ..
theorem movhl (vb eb) : Statement (.movhl vb eb) := command_masked ..
theorem movlh (vb eb) : Statement (.movlh vb eb) := command_masked ..
theorem align (vb eb imm) : Statement (.align vb eb imm) := command_masked ..
theorem permi (vb eb imm) : Statement (.permi vb eb imm) := command_masked ..
theorem shufp (vb eb imm) : Statement (.shufp vb eb imm) := command_masked ..
theorem permhw (vb eb sel0 sel1 sel2 sel3) : Statement (.permhw vb eb sel0 sel1 sel2 sel3) := command_masked ..
theorem permlw (vb eb sel0 sel1 sel2 sel3) : Statement (.permlw vb eb sel0 sel1 sel2 sel3) := command_masked ..
theorem unpckh (vb eb) : Statement (.unpckh vb eb) := command_masked ..
theorem unpckl (vb eb) : Statement (.unpckl vb eb) := command_masked ..
theorem perm2x128 (vb eb sel0 z0 sel1 z1) : Statement (.perm2x128 vb eb sel0 z0 sel1 z1) := command_masked ..
theorem bshufc (tlen tvec tebits) : Statement (.bshufc tlen tvec tebits) := command_masked ..
theorem bshufr (tlen) : Statement (.bshufr tlen) := command_masked ..
theorem blend (vb eb imm) : Statement (.blend vb eb imm) := command_masked ..
theorem permq (src0 src1 src2 src3) : Statement (.permq src0 src1 src2 src3) := command_masked ..

end Sys2Proof.Laws.OpRow
end

