-- ==== Sys2Proof/Tests/Slice0.lean ====
section
/-!
SUPPORT. Tests. Expected results are the spec's own: the words and masks of 95_test_vectors.md, or words written out here from
the field layout of 30_encoding.md R60. The last part gives, for every statement with hypotheses, a concrete state and operands
that meet them.
-/

namespace Sys2Proof.Tests

open Sys2Proof Sys2Proof.Machine

/-! ## Small states -/

/-- The caller presents a command word with a table and takes no response. -/
def present (w : Nat) (tbl : List Nat := []) : Pins :=
  { rst := false, req := some { cmd := BitVec.ofNat 64 w, tbl := tableOf tbl }, rspReady := false }

def quiet : Pins := { rst := false, req := none, rspReady := false }

def take : Pins := { rst := false, req := none, rspReady := true }

def assertReset : Pins := { rst := true, req := none, rspReady := false }

/-- The block right after reset, with the given pins to come. -/
def fresh (b : Build) (ps : List Pins) : State := { State.resetOf b with inputs := ps }

/-- The request `INSERT imm=0x0`. -/
def insertRequest : Request := { cmd := 0x0000000000000001, tbl := tableOf [] }

/-- The request of the all-zero command word. -/
def illegalRequest : Request := { cmd := 0, tbl := tableOf [] }

/-- The block after it accepted `insertRequest`. -/
def held (ps : List Pins) : State :=
  { fresh .b256 ps with
    rspv := true, current := insertRequest, history := [.accepted insertRequest], writes := 1,
    rsp := { status := .ok, len := 4, cause := .none, info := 0, mask := [4, 1, 2, 3] ++ List.replicate 28 0 } }

/-- The block after it accepted `illegalRequest`. -/
def faulted (ps : List Pins) : State :=
  { fresh .b256 ps with
    halted := true, faultCause := .illegalOp, rspv := true, current := illegalRequest,
    history := [.accepted illegalRequest], writes := 1,
    rsp := { status := .fault, len := 0, cause := .illegalOp, info := 0, mask := List.replicate 32 0 } }

/-- The same block when its response has been taken. -/
def stuck (ps : List Pins) : State := (faulted ps).deliver

/-- What a step shows: RSPH, the mask entries below LEN, and STS. -/
def shown : Host.Outcome State Fault Refusal → Option (Nat × List Nat × Nat)
  | .next t => some ((rsph t.rsp).toNat, (t.rsp.mask.take t.rsp.len.toNat).map BitVec.toNat, (sts t).toNat)
  | .fault _ => none
  | .refused _ => none

/-- What the step shows that accepts a command word with a table, right after reset. -/
def answer (b : Build) (w : Nat) (tbl : List Nat := []) : Option (Nat × List Nat × Nat) :=
  shown (step (fresh b [present w tbl]))

/-! ## WellFormed refuses what it should -/

theorem test_wf_refuses_v512_in_narrow_build :
    [Instr.movhl .v512 .e32, .movlh .v512 .e32, .align .v512 .e32 0, .permi .v512 .e32 0, .shufp .v512 .e32 0,
      .permhw .v512 .e16 0 0 0 0, .permlw .v512 .e16 0 0 0 0, .unpckh .v512 .e32, .unpckl .v512 .e32,
      .perm2x128 .v512 .e32 0 false 0 false, .blend .v512 .e32 0].map (Instr.wf .b256) =
      List.replicate 11 false := by decide

theorem test_wf_admits_v512_in_wide_build : (Instr.blend .v512 .e32 0).wf .b512 = true := by decide

theorem test_domain_refuses_odd_and_wide_moves :
    [Instr.movhl .v64 .e64, .movhl .v256 .e32, .movlh .v64 .e64, .movlh .v512 .e8].map Instr.inDomain =
      [false, false, false, false] := by decide

theorem test_domain_refuses_digit_groups :
    [Instr.permi .v128 .e8 0, .permi .v64 .e64 0, .shufp .v256 .e8 0, .shufp .v64 .e64 0].map Instr.inDomain =
      [false, false, false, false] := by decide

theorem test_domain_refuses_word_shapes :
    [Instr.permhw .v64 .e16 0 0 0 0, .permhw .v256 .e32 0 0 0 0, .permlw .v64 .e16 0 0 0 0,
      .permlw .v256 .e32 0 0 0 0].map Instr.inDomain = [false, false, false, false] := by decide

theorem test_domain_refuses_single_elements :
    [Instr.unpckh .v64 .e64, .unpckl .v64 .e64].map Instr.inDomain = [false, false] := by decide

theorem test_domain_refuses_one_group : (Instr.perm2x128 .v128 .e32 0 false 2 false).inDomain = false := by decide

theorem test_domain_refuses_tables :
    [Instr.bshufc 16 false 8, .bshufc 16 true 16, .bshufc 8 true 8, .bshufr 31, .bshufr 0].map Instr.inDomain =
      [false, false, false, false, false] := by decide

/-! ## Decoding: every constructor's word, written out field by field from R60 and R74 to R80 -/

/-- COUNTS = 2, COUNTD = 1, ZMASK = 1010. -/
theorem test_decode_insert : decode (0b10_01_1010#8 ++ 0x00000001#32 |>.setWidth 64) = .ok (.insert 0b1010 1 2) := by
  decide

/-- `MOVHL.v128.e64`. -/
theorem test_decode_movhl : decode 0x0000000000000D02 = .ok (.movhl .v128 .e64) := by decide

/-- `MOVLH.v64.e32`. -/
theorem test_decode_movlh : decode 0x0000000000000803 = .ok (.movlh .v64 .e32) := by decide

/-- `ALIGN.v256.e8 imm=0x11`. -/
theorem test_decode_align : decode 0x0000001100000204 = .ok (.align .v256 .e8 0x11) := by decide

/-- `PERMI.v256.e16 imm=0xFFFFFFFF`. -/
theorem test_decode_permi : decode 0xFFFFFFFF00000605 = .ok (.permi .v256 .e16 0xFFFFFFFF) := by decide

/-- `SHUFP.v128.e16 imm=0xFFFFFF`. -/
theorem test_decode_shufp : decode 0x00FFFFFF00000506 = .ok (.shufp .v128 .e16 0xFFFFFF) := by decide

/-- `PERMHW.v128.e16 imm=0x1B`: SEL0 to SEL3 are 3, 2, 1, 0. -/
theorem test_decode_permhw : decode 0x0000001B00000507 = .ok (.permhw .v128 .e16 3 2 1 0) := by decide

/-- `PERMLW.v256.e16 imm=0xE4`: SEL0 to SEL3 are 0, 1, 2, 3. -/
theorem test_decode_permlw : decode 0x000000E400000608 = .ok (.permlw .v256 .e16 0 1 2 3) := by decide

/-- `UNPCKH.v256.e32`. -/
theorem test_decode_unpckh : decode 0x0000000000000A09 = .ok (.unpckh .v256 .e32) := by decide

/-- `UNPCKL.v128.e32` with IMM, TLEN, TVEC and TEBITS all ones. -/
theorem test_decode_unpckl : decode 0xFFFFFFFFFF7F090A = .ok (.unpckl .v128 .e32) := by decide

/-- SEL0 = 1, Z0 set, SEL1 = 2, Z1 clear: IMM = 0b0010_1001. -/
theorem test_decode_perm2x128 : decode 0x0000002900000E0B = .ok (.perm2x128 .v256 .e64 1 true 2 false) := by decide

/-- `BSHUFC tlen=63 tvec=1 tebits=8`. -/
theorem test_decode_bshufc : decode 0x00000000087F000C = .ok (.bshufc 63 true 8) := by decide

/-- `BSHUFR tlen=16 tvec=0 tebits=3`. -/
theorem test_decode_bshufr : decode 0x000000000310000D = .ok (.bshufr 16) := by decide

/-- `BLEND.v256.e8 imm=0x80000001`. -/
theorem test_decode_blend : decode 0x800000010000020E = .ok (.blend .v256 .e8 0x80000001) := by decide

/-- `PERMQ imm=0x1E4`: bits 31:8 are ignored. -/
theorem test_decode_permq : decode 0x000001E40000000F = .ok (.permq 0 1 2 3) := by decide

theorem test_decode_rejects :
    [0x0000000000000000, 0x0000000000000010, 0x000000000000003F].map (fun w => decode w) =
      [.error .illegalOp, .error .illegalOp, .error .illegalOp] ∧
    [0x0000003000000021, 0x0000003000001001, 0x0000001B0080000F].map (fun w => decode w) =
      [.error .reservedBits, .error .reservedBits, .error .reservedBits] := by decide

/-- The host's word of the ALIGN row: its 64 bits, the mask bits those of the row's match. -/
theorem test_decode_table_word : decodeTableWord 64 0x04 = some (.align .v64 .e8 0) := by decide

/-! ## One step per operation: the vectors of 95_test_vectors.md -/

theorem test_insert : answer .b256 0x0000009A00000001 = some (0x00000400, [0, 0xFF, 2, 0xFF], 0x0002) := by decide

theorem test_movhl : answer .b256 0x0000000000000902 = some (0x00000400, [6, 7, 2, 3], 0x0002) := by decide

theorem test_movhl_two_groups : answer .b256 0x0000000000000A02 = some (0x00040002, [], 0x0043) := by decide

theorem test_movlh : answer .b256 0x0000000000000903 = some (0x00000400, [0, 1, 4, 5], 0x0002) := by decide

theorem test_movlh_odd : answer .b256 0x0000000000000C03 = some (0x00040002, [], 0x0043) := by decide

theorem test_align : answer .b256 0x0000000200000A04 = some (0x00000800, [2, 3, 8, 9, 6, 7, 12, 13], 0x0002) := by decide

theorem test_align_range : answer .b256 0x0000001100000204 = some (0x1F080002, [], 0x1F83) := by decide

theorem test_permi_drains : answer .b256 0xFFFFFFFF00000605 =
    some (0x00001000, [7, 7, 7, 7, 7, 7, 7, 7, 15, 15, 11, 8, 8, 8, 8, 8], 0x0002) := by decide

theorem test_permi_reloads : answer .b256 0x0000010000000A05 =
    some (0x00000800, [0, 0, 0, 0, 4, 4, 4, 4], 0x0002) := by decide

theorem test_shufp : answer .b256 0x0000000B00000E06 = some (0x00000400, [1, 5, 2, 7], 0x0002) := by decide

theorem test_shufp_bytes : answer .b256 0x0000000000000206 = some (0x00040002, [], 0x0043) := by decide

theorem test_permhw : answer .b256 0x0000001B00000607 =
    some (0x00001000, [0, 1, 2, 3, 7, 6, 5, 4, 8, 9, 10, 11, 15, 14, 13, 12], 0x0002) := by decide

theorem test_permhw_half_group : answer .b256 0x0000001B00000407 = some (0x00040002, [], 0x0043) := by decide

theorem test_permlw : answer .b256 0x0000001B00000608 =
    some (0x00001000, [3, 2, 1, 0, 4, 5, 6, 7, 11, 10, 9, 8, 12, 13, 14, 15], 0x0002) := by decide

theorem test_unpckh : answer .b256 0x0000000000000A09 = some (0x00000800, [2, 10, 3, 11, 6, 14, 7, 15], 0x0002) := by
  decide

theorem test_unpckl : answer .b256 0xFFFFFFFFFF7F090A = some (0x00000400, [0, 4, 1, 5], 0x0002) := by decide

theorem test_perm2x128 : answer .b256 0x0000003100000A0B =
    some (0x00000800, [4, 5, 6, 7, 12, 13, 14, 15], 0x0002) := by decide

theorem test_perm2x128_empty_before_shape : answer .b256 0x000000880000090B = some (0x00000001, [], 0x0002) := by decide

theorem test_bshufc : answer .b256 0x000000000850000C [0x80, 0x0F, 0xFF, 0, 1, 2, 3, 4, 5, 6, 7, 8, 9, 0x0A, 0x0B, 0xFF] =
    some (0x00001000, [0xFF, 15, 0xFF, 0, 1, 2, 3, 4, 5, 6, 7, 8, 9, 10, 11, 0xFF], 0x0002) := by decide

theorem test_bshufc_form_before_length : answer .b256 0x000000000808000C = some (0x00050002, [], 0x0053) := by decide

theorem test_bshufr_upper_half : (answer .b256 0x000000000020000D (List.replicate 31 0 ++ [0x0F])).map
    (fun a => (a.1, a.2.1.drop 15)) =
      some (0x00002000, [0, 16, 16, 16, 16, 16, 16, 16, 16, 16, 16, 16, 16, 16, 16, 16, 31]) := by decide

theorem test_bshufr_cross_half : answer .b256 0x000000000020000D [0, 0, 0x10] = some (0x02070002, [], 0x0273) := by decide

theorem test_blend : answer .b256 0x000000A50000050E = some (0x00000800, [8, 1, 10, 3, 4, 13, 6, 15], 0x0002) := by decide

theorem test_blend_wide : answer .b512 0x0000000500000B0E =
    some (0x00001000, [16, 1, 18, 3, 4, 5, 6, 7, 8, 9, 10, 11, 12, 13, 14, 15], 0x0002) := by decide

theorem test_permq : answer .b256 0x0000004E0000000F = some (0x00000400, [2, 3, 0, 1], 0x0002) := by decide

/-! ## The frame and the status words -/

theorem test_illegal_op : answer .b256 0x000000000000003F = some (0x00010002, [], 0x0013) := by decide

theorem test_reserved_bits : answer .b256 0x0000001B0080000F = some (0x00020002, [], 0x0023) := by decide

theorem test_bad_shape_before_empty : answer .b256 0x0000008800000B0B = some (0x00030002, [], 0x0033) := by decide

theorem test_reset_sts : sts State.reset = 0x0000 := by decide

theorem test_taken_fault_sts : (shown (step (faulted [take]))).map (fun a => a.2.2) = some 0x0011 := by decide

theorem test_request_waits_while_a_response_is_held :
    (shown (step (held [present 0x0000003100000A0B]))).map (fun a => a.2.2) = some 0x0002 := by decide

theorem test_halted_block_accepts_nothing :
    (shown (step (stuck [present 0x0000000000000909]))).map (fun a => a.2.2) = some 0x0011 := by decide

/-- PERMQ imm=0x1B by name is the command word of its vector. -/
theorem test_assemble : (assemble { op := .permq, imm := 0x1B }).map (fun r => r.cmd) =
    .ok 0x0000001B0000000F := by decide

/-! ## Witnesses: states and operands that meet the hypotheses of each statement -/

/-- What the statements about Accept assume of a state and the request presented in it. -/
abbrev Accepting (s : State) (r : Request) : Prop :=
  s.pins.rst = false ∧ s.pins.req = some r ∧ s.halted = false ∧ s.rspv = false ∧ keepsRequest s.waiting s.pins.req = true

/-- The request `present w tbl` presents. -/
def request (w : Nat) (tbl : List Nat := []) : Request := { cmd := BitVec.ofNat 64 w, tbl := tableOf tbl }

/-- A request that waited and is presented again unchanged. -/
def waited : State := { fresh .b256 [present 0x0F] with waiting := some (request 0x0F) }

theorem test_witness_AssembledLine :
    (AsmLine.shape { op := .align, shape := some (.v512, .e64) }).isSome = Op.align.readsShape ∧
    (AsmLine.shape { op := .bshufr, tlen := 63 }).isSome = Op.bshufr.readsShape ∧
    (Op.blend.readsShape = true ∧ AsmLine.shape { op := .blend } = none) ∧
    (Op.permq.readsShape = false ∧ AsmLine.shape { op := .permq, shape := some (.v64, .e8) } ≠ none) := by decide

theorem test_witness_IllegalOpFaults :
    (Accepting (fresh .b256 [present 0]) (request 0) ∧ (cmdOp (request 0).cmd).toNat < 0x01) ∧
    (Accepting (fresh .b512 [present 0xFFFFFFFFFFFFFFF0]) (request 0xFFFFFFFFFFFFFFF0) ∧
      0x0F < (cmdOp (request 0xFFFFFFFFFFFFFFF0).cmd).toNat) := by decide

theorem test_witness_ReservedBitsFault :
    [0x21, 0x100F, 0x80000F].all fun w => decide (Accepting (fresh .b256 [present w]) (request w) ∧
      0x01 ≤ (cmdOp (request w).cmd).toNat ∧ (cmdOp (request w).cmd).toNat ≤ 0x0F ∧
      (cmdRsv0 (request w).cmd ≠ 0 ∨ cmdRsv1 (request w).cmd ≠ 0 ∨ cmdRsv2 (request w).cmd ≠ 0)) := by decide

theorem test_witness_WideShapeFaults :
    (Instr.shape (.blend .v512 .e8 0) = some (.v512, .e8) ∧ VecWidth.v512 = vecWidthOfCode 3 ∧ (fresh .b256 []).build = .b256) ∧
    (Instr.shape (.align .v256 .e8 0) = some (.v256, .e8) ∧ VecWidth.v256 ≠ vecWidthOfCode 3) ∧
    (Instr.shape (.movhl .v512 .e8) = some (.v512, .e8) ∧ (fresh .b512 []).build = .b512) := by decide

theorem test_witness_InsertWord : (0xFFFFFFFFFF7F0F01#64 : Cmd) &&& 0x80F0FF#64 = 0x01 := by decide

theorem test_witness_PermqWord : (0x000001E40000000F#64 : Cmd) &&& 0x80F0FF#64 = 0x0F := by decide

/-- Words of PERMHW, PERMLW and PERM2X128 with the bits that do not reach the instruction set. -/
theorem test_witness_SelectorWords :
    (0xFFFFFF1BFF7F0507#64 : Cmd) &&& 0x80F0FF#64 = 0x07 ∧ (0xFFFFFFE4FF7F0608#64 : Cmd) &&& 0x80F0FF#64 = 0x08 ∧
    (0xFFFFFF64FF7F0A0B#64 : Cmd) &&& 0x80F0FF#64 = 0x0B := by decide

/-- A word of each row of `CommandFieldsReachTheirOperands`, every field that is not `OP` or reserved all ones. -/
theorem test_witness_CommandFields :
    [0x02, 0x03, 0x04, 0x05, 0x06, 0x09, 0x0A, 0x0E, 0x0C, 0x0D].all fun op =>
      (0xFFFFFFFFFF7F0F00#64 ||| op : Cmd) &&& 0x80F0FF#64 = op := by decide

/-- MOVHL and MOVLH: a shape the build admits inside their domain, and two outside it. -/
theorem test_witness_Moves :
    (Build.admits .b256 .v128 = true ∧ oneGroupEven .v128 .e64 = true) ∧
    (Build.admits .b256 .v64 = true ∧ oneGroupEven .v64 .e64 = false) ∧
    (Build.admits .b512 .v512 = true ∧ oneGroupEven .v512 .e8 = false) := by decide

/-- ALIGN: the greatest count that completes and the least that faults, and the least and greatest shapes. -/
theorem test_witness_Align :
    (Build.admits .b256 .v64 = true ∧ (1 : Imm).toNat ≤ (geometry .v64 .e64).laneElts) ∧
    (Build.admits .b256 .v64 = true ∧ (geometry .v64 .e64).laneElts < (2 : Imm).toNat) ∧
    (Build.admits .b512 .v512 = true ∧ (16 : Imm).toNat ≤ (geometry .v512 .e8).laneElts) ∧
    (Build.admits .b512 .v512 = true ∧ (geometry .v512 .e8).laneElts < (0xFFFFFFFF : Imm).toNat) := by decide

/-- PERMI and SHUFP: lane groups of 2, 4 and 8 elements, and of 1 and 16. -/
theorem test_witness_Digits :
    (Build.admits .b256 .v256 = true ∧ digitGroup .v256 .e64 = true ∧ digitGroup .v256 .e32 = true ∧
      digitGroup .v256 .e16 = true) ∧
    (Build.admits .b256 .v64 = true ∧ digitGroup .v64 .e64 = false) ∧
    (Build.admits .b512 .v512 = true ∧ digitGroup .v512 .e8 = false) := by decide

/-- PERMHW and PERMLW. -/
theorem test_witness_Words :
    (Build.admits .b512 .v512 = true ∧ wordGroups .v512 .e16 = true) ∧
    (Build.admits .b256 .v64 = true ∧ wordGroups .v64 .e16 = false) := by decide

/-- UNPCKH and UNPCKL. -/
theorem test_witness_Pairs :
    (Build.admits .b256 .v64 = true ∧ pairGroup .v64 .e32 = true) ∧
    (Build.admits .b256 .v64 = true ∧ pairGroup .v64 .e64 = false) := by decide

/-- PERM2X128: a zeroing bit in an admitted shape outside the domain, no zeroing bit inside it and outside it. -/
theorem test_witness_Perm2x128 :
    Build.admits .b256 .v128 = true ∧ Build.admits .b256 .v256 = true ∧ twoGroups .v256 = true ∧ twoGroups .v128 = false := by
  decide

/-- BSHUFC and BSHUFR: a table of good entries, and tables whose first bad entry is at the first and the last position. -/
theorem test_witness_Tables :
    let good := fun (tbl : Vector TblEntry Config.maxTbl) (k : Nat) =>
      (tblByte tbl k).getLsbD 7 = true ∨ (tblByte tbl k).toNat % 128 < 16
    (∀ k < (32 : BitVec 6).toNat, good (tableOf [0x0F, 0x80, 0xFF]) k) ∧
    (0 < (16 : BitVec 6).toNat ∧ ¬ good (tableOf [0x7F]) 0 ∧ ∀ k < 0, good (tableOf [0x7F]) k) ∧
    (31 < (32 : BitVec 6).toNat ∧ ¬ good (tableOf (List.replicate 31 0 ++ [0x10])) 31 ∧
      ∀ k < 31, good (tableOf (List.replicate 31 0 ++ [0x10])) k) := by decide

/-- BSHUFC and BSHUFR: the operands that fault before the table is read. -/
theorem test_witness_TableForms :
    ((16 : BitVec 8) ≠ 8) ∧ ((0 : BitVec 6) ≠ 16 ∧ (0 : BitVec 6) ≠ 32) ∧ ((63 : BitVec 6) ≠ 16 ∧ (63 : BitVec 6) ≠ 32) := by
  decide

theorem test_witness_Blend : Build.admits .b512 .v512 = true ∧ 32 ≤ 32 ∧ 32 < (geometry .v512 .e8).n := by decide

/-- Masks of an operation of each kind, at the least and the greatest length. -/
theorem test_witness_Masks :
    outcome .b256 (tableOf []) (.align .v64 .e64 1) = .ok [.lane 1] ∧
    outcome .b256 (tableOf [0x80]) (.bshufr 16) = .ok (.zero :: List.replicate 15 (.lane 0)) ∧
    outcome .b512 (tableOf []) (.permi .v512 .e64 0) =
      .ok [.lane 0, .lane 0, .lane 2, .lane 2, .lane 4, .lane 4, .lane 6, .lane 6] ∧
    requestOutcome .b256 (request 0x0000000F00000001) = .ok [.zero, .zero, .zero, .zero] := by decide

/-- A fault of each cause an operation raises, with INFO at the greatest value where it carries a position. -/
theorem test_witness_FaultCauses :
    outcome .b256 (tableOf []) (.blend .v512 .e8 0) = .fault .badShape 0 ∧
    outcome .b256 (tableOf []) (.unpckh .v64 .e64) = .fault .shapePrecond 0 ∧
    outcome .b256 (tableOf []) (.bshufc 16 false 8) = .fault .tblForm 0 ∧
    outcome .b256 (tableOf []) (.bshufr 63) = .fault .tblLen 0 ∧
    outcome .b256 (tableOf (List.replicate 31 0 ++ [0x10])) (.bshufr 32) = .fault .tblIndex 31 ∧
    outcome .b512 (tableOf []) (.align .v512 .e8 17) = .fault .alignRange 63 := by decide

theorem test_witness_Empty : requestOutcome .b256 (request 0x000000880000090B) = .empty := by decide

/-- For each row of R69, two different requests that agree on what the row lists. -/
theorem test_witness_IgnoredFields :
    ReadsTheSame .insert (request 0x0000003000000001) (request 0x0000123000000B01 [1]) ∧
    ReadsTheSame .align (request 0x0000000100000904) (request 0x00000001FF7F0904 [1]) ∧
    ReadsTheSame .perm2x128 (request 0x0000002000000A0B) (request 0xFFFFFF6400000A0B) ∧
    ReadsTheSame .blend (request 0x000000050000090E) (request 0xFFFFFFF50000090E) ∧
    ReadsTheSame .bshufc (request 0x000000000850000C [5]) (request 0xFFFFFFFF08500F0C ([0x105] ++ List.replicate 15 0 ++ [9])) ∧
    ReadsTheSame .bshufr (request 0x000000000010000D [5]) (request 0x000000000310000D ([0x105] ++ List.replicate 15 0 ++ [9])) := by
  unfold ReadsTheSame
  exact ⟨by decide, by decide, by decide, by decide, by decide, by decide⟩

theorem test_witness_ResponseHeader_ok : Answers .b256 (requestOutcome .b256 insertRequest) (held []).rsp :=
  ⟨by decide, rfl, rfl, rfl, rfl, by decide⟩

theorem test_witness_ResponseHeader_empty : Answers .b256 (requestOutcome .b256 (request 0x000000880000090B))
    { status := .empty, len := 0, cause := .none, info := 0, mask := List.replicate 32 7 } :=
  ⟨by decide, rfl, rfl, rfl, rfl⟩

theorem test_witness_ResponseHeader_fault : Answers .b256 (requestOutcome .b256 illegalRequest) (faulted []).rsp :=
  ⟨by decide, rfl, rfl, rfl, rfl⟩

/-- A state that holds an OK response meets the invariant, whatever pins are to come. -/
theorem test_witness_Inv_held (ps : List Pins) : Inv (held ps) where
  maskSize := by simp [held, fresh, State.resetOf, Config.maxOut, Config.vmaxBits]
  noRecord := fun _ => ⟨rfl, rfl⟩
  record := fun h => nomatch h
  infoRange := by simp [held, fresh, State.resetOf, Config.maxOut, Config.vmaxBits]
  held := fun _ => test_witness_ResponseHeader_ok
  heldFault := fun _ => by simp [held, fresh, State.resetOf]
  takenFault := fun h => nomatch h
  pending := rfl
  past := ⟨rfl, trivial⟩

/-- So does a halted state that holds a FAULT response. -/
theorem test_witness_Inv_faulted (ps : List Pins) : Inv (faulted ps) where
  maskSize := by simp [faulted, fresh, State.resetOf, Config.maxOut, Config.vmaxBits]
  noRecord := fun h => nomatch h
  record := fun _ h => nomatch h
  infoRange := by simp [faulted, fresh, State.resetOf, Config.maxOut, Config.vmaxBits]
  held := fun _ => test_witness_ResponseHeader_fault
  heldFault := fun _ => by simp [faulted, fresh, State.resetOf]
  takenFault := fun _ h => nomatch h
  pending := rfl
  past := ⟨rfl, trivial⟩

/-- So does a halted state whose response has been taken. -/
theorem test_witness_Inv_stuck (ps : List Pins) : Inv (stuck ps) where
  maskSize := by simp [stuck, faulted, fresh, State.resetOf, Config.maxOut, Config.vmaxBits]
  noRecord := fun h => nomatch h
  record := fun _ h => nomatch h
  infoRange := by simp [stuck, faulted, fresh, State.resetOf, Config.maxOut, Config.vmaxBits]
  held := fun h => nomatch h
  heldFault := fun h => nomatch h
  takenFault := fun _ _ => ⟨_, _, _, rfl, rfl, rfl, rfl⟩
  pending := rfl
  past := ⟨rfl, test_witness_ResponseHeader_fault, rfl, trivial⟩

/-- From such states a step answers next by delivering, by waiting and by reset. -/
theorem test_witness_StepKeepsTheInvariant :
    step (held [take]) = .next ((held [take]).sample take).deliver ∧
    step (faulted [present 0x0F]) = .next ((faulted [present 0x0F]).sample (present 0x0F)) ∧
    step (stuck [assertReset]) = .next ((stuck [assertReset]).sample assertReset).resetBlock := ⟨rfl, rfl, rfl⟩

theorem test_witness_Buses : (held []).rsp.mask.length = Config.maxOut .b256 ∧ 0 < Config.maxOut .b256 ∧
    31 < Config.maxOut .b256 ∧ 31 < 32 := by decide

theorem test_witness_StepRuns :
    Accepting (fresh .b256 [present 0x0F]) (request 0x0F) ∧ decode (request 0x0F).cmd = .ok (.permq 0 0 0 0) := by decide

theorem test_witness_Accept :
    Accepting (fresh .b256 [present 0x0F]) (request 0x0F) ∧ Accepting waited (request 0x0F) ∧
    (Accepting (fresh .b512 [present 0x000000880000090B]) (request 0x000000880000090B) ∧
      requestOutcome .b512 (request 0x000000880000090B) = .empty) := by decide

/-- A step that answers next where Accept is not enabled: a response is held. -/
theorem test_witness_Accept_disabled :
    step (held [present 0x0F]) = .next ((held [present 0x0F]).sample (present 0x0F)) ∧
    ¬ ((held [present 0x0F]).pins.rst = false ∧ (held [present 0x0F]).halted = false ∧ (held [present 0x0F]).rspv = false ∧
      (held [present 0x0F]).pins.req ≠ none) := ⟨rfl, by decide⟩

/-- A fault taken at the greatest INFO of a 512 build, a run without reset from the state it leaves to one whose response is
taken, and a step there that presents a request. -/
theorem test_witness_FaultEntry :
    let s := fresh .b512 [present 0x0000001100000304, take, present 0x0F]
    Accepting s (request 0x0000001100000304) ∧
    requestOutcome .b512 (request 0x0000001100000304) = .fault .alignRange 63 ∧
    ∃ t u v, step s = .next t ∧ RunsWithoutReset t u ∧ u.rspv = false ∧ u.pins.rst = false ∧ step u = .next v :=
  ⟨by decide, by decide, _, _, _, rfl, .step rfl rfl (.here _), rfl, rfl, rfl⟩

theorem test_witness_Deliver :
    ((faulted [take]).pins.rst = false ∧ (faulted [take]).rspv = true ∧ (faulted [take]).pins.rspReady = true ∧
      keepsRequest (faulted [take]).waiting (faulted [take]).pins.req = true) ∧
    (step (held [quiet]) = .next ((held [quiet]).sample quiet) ∧
      ¬ ((held [quiet]).pins.rst = false ∧ (held [quiet]).rspv = true ∧ (held [quiet]).pins.rspReady = true)) :=
  ⟨by decide, rfl, by decide⟩

/-- Reset while a response is held and a request is presented, which is presented again when reset is released. -/
theorem test_witness_ResetStep :
    let s := held [{ present 0x0F with rst := true }, present 0x0F]
    (s.pins.rst = true ∧ keepsRequest s.waiting s.pins.req = true ∧ s.pins.req = some (request 0x0F)) ∧
    (match step s with
      | .next t => t.pins.rst = false ∧ t.pins.req = some (request 0x0F)
      | .fault _ => False
      | .refused _ => False) := ⟨by decide, rfl, rfl⟩

/-- No transaction is enabled: nothing presented, the block halted, a response held. -/
theorem test_witness_Idle :
    ∀ s ∈ [fresh .b256 [take], stuck [present 0x0F, quiet], held [present 0x0F]],
      s.pins.rst = false ∧ ¬ (s.rspv = true ∧ s.pins.rspReady = true) ∧
      (s.pins.req = none ∨ s.halted = true ∨ s.rspv = true) ∧ keepsRequest s.waiting s.pins.req = true ∧
      s.waitsForEver s.pins = false := by decide

/-- A step refused, a step stuck, and a step that is neither. -/
theorem test_witness_Stops :
    step { held [quiet] with waiting := some (request 0x0F) } = .refused .unstableRequest ∧
    step { stuck [] with waiting := some (request 0x0F) } = .fault .stuckHalted ∧
    step (stuck []) = .next ((stuck []).sample quiet) := ⟨rfl, rfl, rfl⟩

/-- A request presented while a response is held, and another presented at the next step. -/
theorem test_witness_WaitingRequest :
    let s := held [present 0x0F, present 0x01]
    let t := s.sample (present 0x0F)
    step s = .next t ∧ s.pins.req = some (request 0x0F) ∧ s.reqReady s.pins.rst = false ∧ t.pins.req ≠ some (request 0x0F) :=
  ⟨rfl, rfl, rfl, by decide⟩

/-- A step that sets HALTED by accepting a faulting request, and one that clears it. -/
theorem test_witness_Halted :
    (match step (fresh .b256 [present 0]) with
      | .next t => (fresh .b256 [present 0]).halted = false ∧ t.halted = true ∧
          t.history = .accepted (request 0) :: (fresh .b256 [present 0]).history ∧
          requestOutcome .b256 (request 0) = .fault .illegalOp 0
      | .fault _ => False
      | .refused _ => False) ∧
    (match step (stuck [assertReset]) with
      | .next t => (stuck [assertReset]).halted = true ∧ t.halted = false
      | .fault _ => False
      | .refused _ => False) := ⟨⟨rfl, rfl, rfl, rfl⟩, rfl, rfl⟩

/-- Steps of a halted block without reset: one delivers, one waits with the response taken. -/
theorem test_witness_HaltedBlock :
    ((faulted [take]).halted = true ∧ (faulted [take]).pins.rst = false ∧
      step (faulted [take]) = .next ((faulted [take]).sample take).deliver) ∧
    ((stuck [quiet]).halted = true ∧ (stuck [quiet]).pins.rst = false ∧ (stuck [quiet]).rspv = false ∧
      step (stuck [quiet]) = .next ((stuck [quiet]).sample quiet)) := ⟨⟨rfl, rfl, rfl⟩, rfl, rfl, rfl, rfl⟩

/-- A stuck block that waits, one that is reset, and a quiescent one. -/
theorem test_witness_Ends :
    ((stuck [take]).stuck = true ∧ step (stuck [take]) = .next ((stuck [take]).sample take)) ∧
    ((stuck [assertReset]).stuck = true ∧
      step (stuck [assertReset]) = .next ((stuck [assertReset]).sample assertReset).resetBlock) ∧
    ((fresh .b256 []).quiescent = true ∧ (fresh .b256 []).pins.rst = false ∧
      keepsRequest (fresh .b256 []).waiting (fresh .b256 []).pins.req = true) := ⟨⟨rfl, rfl⟩, ⟨rfl, rfl⟩, rfl, rfl, rfl⟩

/-- Two blocks of different pasts that accept requests that differ in an ignored field. -/
theorem test_witness_AnswerDepends :
    let s := fresh .b256 [present 0x0000003000000001]
    let s' := { fresh .b256 [present 0x0000123000000001] with history := [.reset], writes := 5 }
    s.build = s'.build ∧ ReadsTheSame .insert (request 0x0000003000000001) (request 0x0000123000000001) ∧
    Accepting s (request 0x0000003000000001) ∧ Accepting s' (request 0x0000123000000001) := by
  unfold ReadsTheSame
  exact ⟨rfl, by decide, by decide, by decide⟩

/-- A clocked block that accepts at its next edge, its count of cycles at an arbitrary value, and the pins to come after. -/
def accepting (ps : List Pins) : Clocked := { st := fresh .b256 (present 0x0F :: ps), age := 7 }

/-- Edges where a response is valid and taken, where its latency has not passed, where a request is accepted, and where
none is. -/
theorem test_witness_ClockedResponseWaits :
    (let c : Clocked := { st := held [take], age := Config.lat };
      keepsRequest c.st.waiting c.st.pins.req = true ∧ c.rspValid c.st.pins.rst = true ∧ c.st.pins.rspReady = true) ∧
    (let c : Clocked := { st := held [take], age := 0 };
      keepsRequest c.st.waiting c.st.pins.req = true ∧ ¬ (c.rspValid c.st.pins.rst = true ∧ c.st.pins.rspReady = true) ∧
        c.accepts c.st.pins = false ∧ ∃ d, c.edge = .next d) ∧
    (keepsRequest (accepting []).st.waiting (accepting []).st.pins.req = true ∧
      (accepting []).accepts (accepting []).st.pins = true) := by
  refine ⟨⟨rfl, ?_, rfl⟩, ⟨rfl, ?_, rfl, _, rfl⟩, rfl, rfl⟩
  · simp [Clocked.rspValid, State.rspOffered, State.pins, held, fresh, take]
  · simp [Clocked.rspValid, Config.lat]

theorem test_witness_ClockedResponseComes :
    let rest := List.replicate Config.lat { rst := false, req := none, rspReady := true } ++ [quiet]
    (accepting rest).st.inputs = present 0x0F :: rest ∧ (present 0x0F).req = some (request 0x0F) ∧
    keepsRequest (accepting rest).st.waiting (present 0x0F).req = true ∧ (accepting rest).accepts (present 0x0F) = true ∧
    0 < Config.lat := ⟨rfl, rfl, rfl, rfl, Nat.succ_pos _⟩

/-- An edge that accepts, one where a request waits behind a held response, and one that neither delivers nor resets. -/
theorem test_witness_ClockedAccept :
    (keepsRequest (accepting []).st.waiting (accepting []).st.pins.req = true ∧
      (accepting []).st.pins.req = some (request 0x0F) ∧
      ((accepting []).signals (accepting []).st.pins.rst).reqReady = true) ∧
    (let c : Clocked := { st := held [present 0x0F], age := 0 };
      (∃ d, c.edge = .next d) ∧ ¬ (c.st.pins.req ≠ none ∧ (c.signals c.st.pins.rst).reqReady = true) ∧
        c.st.rspv = true ∧ c.st.pins.rst = false ∧
        ¬ ((c.signals c.st.pins.rst).rspValid = true ∧ c.st.pins.rspReady = true)) :=
  ⟨⟨rfl, rfl, rfl⟩, ⟨_, rfl⟩, by decide, rfl, rfl, fun h => nomatch h.2⟩

/-- The first edge of `ClockedBlockNeverAnswersBeforeLat` and of `ClockedEdgeIsTheStepOfWhatTheBlockSees` answers next. -/
theorem test_witness_ClockedEdges :
    keepsRequest (accepting []).st.waiting (accepting []).st.pins.req = true ∧
    (accepting []).accepts (accepting []).st.pins = true ∧ 0 < Config.lat ∧
    (∃ d, Clocked.edges (0 + 1) (accepting []) = .next d) ∧ ∃ d, (accepting []).edge = .next d :=
  ⟨rfl, rfl, Nat.succ_pos _, ⟨_, rfl⟩, _, rfl⟩

end Sys2Proof.Tests
end

section
/-!
What `finish` can be given: the mask an outcome carries is as long as R94 says and fits the build's mask array, and the
fault it carries names a cause and an information word in the range of R27.
-/

namespace Sys2Proof.Machine

/-! ## Outcomes in range -/

/-- The outcome is one the record of R23 has room for: a mask of `n` entries fits `RSP.MASK`, a fault names a cause, and
its information word is below `MAX_OUT`. -/
def OpOutcome.InRange (b : Build) (n : Nat) : OpOutcome → Prop
  | .ok M => M.length = n ∧ n ≤ Config.maxOut b
  | .empty => True
  | .fault c x => c ≠ .none ∧ x.toNat < Config.maxOut b

theorem OpOutcome.InRange.fits {b : Build} {n : Nat} {o : OpOutcome} (h : o.InRange b n) : o.Fits b := by
  cases o with
  | ok M => exact h.1.trans_le h.2
  | empty => trivial
  | fault c x => trivial

theorem maxTbl_le_maxOut (b : Build) : Config.maxTbl ≤ Config.maxOut b := by cases b <;> decide

theorem maxOut_pos (b : Build) : 0 < Config.maxOut b :=
  (show 0 < Config.maxTbl by decide).trans_le (maxTbl_le_maxOut b)

theorem fault_zero_inRange {b : Build} {n : Nat} {c : Cause} (hc : c ≠ .none) :
    (OpOutcome.fault c 0).InRange b n := ⟨hc, maxOut_pos b⟩

theorem require_inRange {b : Build} {n : Nat} {p : Bool} {cause : Cause} {o : OpOutcome} (hc : cause ≠ .none)
    (h : p = true → o.InRange b n) : (require p cause o).InRange b n := by
  cases p with
  | true => exact h rfl
  | false => exact fault_zero_inRange hc

theorem readShape_inRange {b : Build} {n : Nat} {vb : VecWidth} {eb : EltWidth} {rule : Geometry → OpOutcome}
    (h : b.admits vb = true → (rule (geometry vb eb)).InRange b n) : (readShape b vb eb rule).InRange b n := by
  cases hb : b.admits vb with
  | true => rw [readShape_of_admits eb rule hb]; exact h hb
  | false => rw [readShape_of_not_admits eb rule hb]; exact fault_zero_inRange (by decide)

/-- A loop over the first `n` positions ends in `n` entries or faults at one of those positions. -/
theorem collect_inRange {b : Build} {n : Nat} {cause : Cause} (f : Nat → Option Entry) (hc : cause ≠ .none)
    (hn : n ≤ Config.maxOut b) : (collect cause f (positions 0 n) []).InRange b n := by
  rcases collect_cases cause f (positions 0 n) [] with ⟨es, h, hl, -⟩ | ⟨p, hp, -, h⟩
  · rw [h]
    exact ⟨by simpa using hl, hn⟩
  · have hp := (mem_positions.mp hp).2
    have hx : (BitVec.ofNat 8 p).toNat ≤ p := by simpa using Nat.mod_le p 256
    rw [h]
    exact ⟨hc, by omega⟩

/-! ## The length of each operation's mask (R94) -/

@[simp] theorem length_lanes (a b bias : Nat) : (lanes a b bias).length = b - a := by simp [lanes]

@[simp] theorem length_wordPicks (base : Nat) (sels : List (BitVec 2)) : (wordPicks base sels).length = sels.length := by
  simp [wordPicks]

theorem length_permiPicks (l : Nat) (digits : List Nat) : (permiPicks l digits).length = digits.length := by
  simp [permiPicks]

theorem length_shufpPicks (n half l : Nat) (digits : List Nat) :
    (shufpPicks n half l digits).length = digits.length := by
  simp [shufpPicks]; omega

theorem length_flatMap_positions {k : Nat} (m : Nat) {f : Nat → List Entry} (h : ∀ q, (f q).length = k) :
    ((positions 0 m).flatMap f).length = m * k := by
  simp [List.length_flatMap, h]

@[simp] theorem length_interleave (n a b : Nat) : (interleave n a b).length = (b - a) * 2 := by
  simp [interleave, List.length_flatMap]

@[simp] theorem length_foldl_set_zero (zmask : BitVec 4) (ps : List Nat) (M : List Entry) :
    (ps.foldl (fun M k => if zmask.getLsbD k then M.set k .zero else M) M).length = M.length := by
  induction ps generalizing M with
  | nil => rfl
  | cons k ps ih => rw [List.foldl_cons, ih]; split <;> simp

@[simp] theorem length_insertMask (zmask : BitVec 4) (countd counts : BitVec 2) :
    (insertMask zmask countd counts).length = 4 := by
  simp [insertMask]

/-! ## What each domain of shapes says of the element counts -/

theorem half_n_of_moveDomain {g : Geometry} (h : moveDomain g = true) : g.n / 2 * 2 = g.n := by
  simp only [moveDomain, Bool.and_eq_true, beq_iff_eq] at h
  omega

theorem eighth_n_of_wordDomain {g : Geometry} (h : wordDomain g = true) : g.n / 8 * 8 = g.n := by
  simp only [wordDomain, Bool.and_eq_true, beq_iff_eq] at h
  omega

theorem half_laneElts_of_pairDomain {vb : VecWidth} {eb : EltWidth} (h : pairDomain (geometry vb eb) = true) :
    (geometry vb eb).laneElts / 2 * 2 = (geometry vb eb).laneElts := by
  revert h; cases vb <;> cases eb <;> decide

/-! ## The outcome of each operation -/

/-- The rule of an operation with a domain of shapes: a mask of `N` entries inside it, SHAPE_PRECOND outside. -/
theorem shapeRule_inRange {b : Build} {vb : VecWidth} {eb : EltWidth} {domain : Geometry → Bool}
    {mask : Geometry → List Entry}
    (h : domain (geometry vb eb) = true → (mask (geometry vb eb)).length = (geometry vb eb).n) :
    (readShape b vb eb fun g => require (domain g) .shapePrecond (.ok (mask g))).InRange b (geometry vb eb).n :=
  readShape_inRange fun hb => require_inRange (by decide) fun hd => ⟨h hd, n_le_maxOut eb hb⟩

section
variable (b : Build) (vb : VecWidth) (eb : EltWidth) (imm : Imm) (sel0 sel1 sel2 sel3 : BitVec 2)

theorem movhlOutcome_inRange : (movhlOutcome b vb eb).InRange b (geometry vb eb).n := by
  refine shapeRule_inRange (domain := moveDomain) fun hd => ?_
  have hn := half_n_of_moveDomain hd
  simp only [List.length_append, length_lanes]
  omega

theorem movlhOutcome_inRange : (movlhOutcome b vb eb).InRange b (geometry vb eb).n := by
  refine shapeRule_inRange (domain := moveDomain) fun hd => ?_
  have hn := half_n_of_moveDomain hd
  simp only [List.length_append, length_lanes]
  omega

theorem alignOutcome_inRange : (alignOutcome b vb eb imm).InRange b (geometry vb eb).n :=
  readShape_inRange fun hb => collect_inRange _ (by decide) (n_le_maxOut eb hb)

theorem permiOutcome_inRange : (permiOutcome b vb eb imm).InRange b (geometry vb eb).n :=
  shapeRule_inRange (domain := digitDomain) fun _ =>
    (drainGroups_length length_permiPicks _ _ _).trans (numLanes_mul_laneElts vb eb)

theorem shufpOutcome_inRange : (shufpOutcome b vb eb imm).InRange b (geometry vb eb).n :=
  shapeRule_inRange (domain := digitDomain) fun _ =>
    (drainGroups_length (length_shufpPicks _ _) _ _ _).trans (numLanes_mul_laneElts vb eb)

theorem permhwOutcome_inRange : (permhwOutcome b vb eb sel0 sel1 sel2 sel3).InRange b (geometry vb eb).n :=
  shapeRule_inRange (domain := wordDomain) fun hd =>
    (length_flatMap_positions (k := 8) _ fun q => by simp).trans (eighth_n_of_wordDomain hd)

theorem permlwOutcome_inRange : (permlwOutcome b vb eb sel0 sel1 sel2 sel3).InRange b (geometry vb eb).n :=
  shapeRule_inRange (domain := wordDomain) fun hd =>
    (length_flatMap_positions (k := 8) _ fun q => by simp).trans (eighth_n_of_wordDomain hd)

theorem unpckhOutcome_inRange : (unpckhOutcome b vb eb).InRange b (geometry vb eb).n := by
  refine shapeRule_inRange (domain := pairDomain) fun hd => ?_
  have he := half_laneElts_of_pairDomain hd
  rw [length_flatMap_positions (k := (geometry vb eb).laneElts) _ fun q => by simp only [length_interleave]; omega,
    numLanes_mul_laneElts]

theorem unpcklOutcome_inRange : (unpcklOutcome b vb eb).InRange b (geometry vb eb).n := by
  refine shapeRule_inRange (domain := pairDomain) fun hd => ?_
  have he := half_laneElts_of_pairDomain hd
  rw [length_flatMap_positions (k := (geometry vb eb).laneElts) _ fun q => by simp only [length_interleave]; omega,
    numLanes_mul_laneElts]

theorem perm2x128Outcome_inRange (z0 z1 : Bool) :
    (perm2x128Outcome b vb eb sel0 z0 sel1 z1).InRange b (geometry vb eb).n := by
  refine readShape_inRange fun hb => ?_
  split
  · trivial
  · refine require_inRange (by decide) fun hd => ⟨?_, n_le_maxOut eb hb⟩
    have hn := numLanes_mul_laneElts vb eb
    rw [beq_iff_eq.mp hd] at hn
    simp only [List.length_flatMap, length_lanes, List.map_cons, List.map_nil, List.sum_cons, List.sum_nil]
    omega

theorem blendOutcome_inRange : (blendOutcome b vb eb imm).InRange b (geometry vb eb).n :=
  readShape_inRange fun hb => ⟨by simp, n_le_maxOut eb hb⟩

end

/-- The length check and the decoder both table operations share. -/
theorem rawTable_inRange (b : Build) (tlen : BitVec 6) (tbl : Vector TblEntry Config.maxTbl) :
    (rawTable tlen tbl).InRange b tlen.toNat := by
  refine require_inRange (by decide) fun h => collect_inRange _ (by decide) ?_
  have hlen : tlen.toNat ≤ Config.maxTbl := by
    simp only [tableLenDomain, Bool.or_eq_true, beq_iff_eq] at h
    simp only [Config.maxTbl]; omega
  exact hlen.trans (maxTbl_le_maxOut b)

/-! ## Every outcome is in range -/

/-- Whatever its operands, an instruction's outcome is in range, its mask as long as R94 says. -/
theorem outcome_inRange (b : Build) (tbl : Vector TblEntry Config.maxTbl) (i : Instr) :
    (outcome b tbl i).InRange b (maskLength i) := by
  have h4 : 4 ≤ Config.maxOut b := (show 4 ≤ Config.maxTbl by decide).trans (maxTbl_le_maxOut b)
  cases i with
  | insert zmask countd counts => exact ⟨length_insertMask _ _ _, h4⟩
  | movhl vb eb => exact movhlOutcome_inRange b vb eb
  | movlh vb eb => exact movlhOutcome_inRange b vb eb
  | align vb eb imm => exact alignOutcome_inRange b vb eb imm
  | permi vb eb imm => exact permiOutcome_inRange b vb eb imm
  | shufp vb eb imm => exact shufpOutcome_inRange b vb eb imm
  | permhw vb eb sel0 sel1 sel2 sel3 => exact permhwOutcome_inRange b vb eb sel0 sel1 sel2 sel3
  | permlw vb eb sel0 sel1 sel2 sel3 => exact permlwOutcome_inRange b vb eb sel0 sel1 sel2 sel3
  | unpckh vb eb => exact unpckhOutcome_inRange b vb eb
  | unpckl vb eb => exact unpcklOutcome_inRange b vb eb
  | perm2x128 vb eb sel0 z0 sel1 z1 => exact perm2x128Outcome_inRange b vb eb sel0 sel1 z0 z1
  | bshufc tlen tvec tebits => exact require_inRange (by decide) fun _ => rawTable_inRange b tlen tbl
  | bshufr tlen => exact rawTable_inRange b tlen tbl
  | blend vb eb imm => exact blendOutcome_inRange b vb eb imm
  | permq src0 src1 src2 src3 => exact ⟨length_wordPicks _ _, h4⟩

/-- What the block computes from any command word fits its record. -/
theorem requestOutcome_inRange (b : Build) (r : Request) : ∃ n, (requestOutcome b r).InRange b n := by
  unfold requestOutcome
  cases decode r.cmd with
  | ok i => exact ⟨maskLength i, outcome_inRange b r.tbl i⟩
  | error e => exact ⟨0, fault_zero_inRange (by cases e <;> decide)⟩

end Sys2Proof.Machine
end

section
/-!
The invariant, one lemma per transaction: each keeps `Inv`, so every step does.
-/

namespace Sys2Proof.Machine

variable {s t : State}

/-! ## Reset establishes the invariant -/

/-- A state with nothing held and nothing halted meets the invariant when its mask array has its size and its history is
right with no request outstanding. -/
theorem inv_of_cleared (hh : s.halted = false) (hc : s.faultCause = .none) (hi : s.faultInfo = 0) (hv : s.rspv = false)
    (hm : s.rsp.mask.length = Config.maxOut s.build) (ho : outstanding s.history = none)
    (hp : HistoryRight s.build s.history) : Inv s where
  maskSize := hm
  noRecord := fun _ => ⟨hc, hi⟩
  record := fun h => by simp [hh] at h
  infoRange := by simpa [hi] using maxOut_pos s.build
  held := fun h => by simp [hv] at h
  heldFault := fun h => by simp [hv] at h
  takenFault := fun h => by simp [hh] at h
  pending := by simp [hv, ho]
  past := hp

theorem inv_resetOf (b : Build) : Inv (State.resetOf b) :=
  inv_of_cleared rfl rfl rfl rfl (List.length_replicate ..) rfl trivial

/-- Reset meets the invariant whatever the block held; of the state before it the history alone counts. -/
theorem Inv.resetBlock (h : Inv s) : Inv s.resetBlock :=
  inv_of_cleared rfl rfl rfl rfl (by simp [freeResponse]) rfl h.past

/-! ## The other transactions keep it -/

/-- No clause speaks of the pins or of a waiting request. -/
theorem Inv.sample (h : Inv s) (p : Pins) : Inv (s.sample p) where
  maskSize := h.maskSize
  noRecord := h.noRecord
  record := h.record
  infoRange := h.infoRange
  held := h.held
  heldFault := h.heldFault
  takenFault := h.takenFault
  pending := h.pending
  past := h.past

/-- Deliver (R93): the response handed over answers the request outstanding, and is the recorded fault if the block is
halted. -/
theorem Inv.deliver (h : Inv s) (hv : s.rspv = true) : Inv s.deliver where
  maskSize := h.maskSize
  noRecord := h.noRecord
  record := h.record
  infoRange := h.infoRange
  held := fun h => nomatch h
  heldFault := fun h => nomatch h
  takenFault := fun hh _ => by
    obtain ⟨hiff, hrec⟩ := h.heldFault hv
    exact ⟨_, _, _, rfl, hiff.mp hh, hrec hh⟩
  pending := rfl
  past := ⟨by rw [h.pending, if_pos hv], h.held hv, h.past⟩

/-- Accept (R90) of a request whose outcome is no fault. -/
theorem Inv.latch_hold (h : Inv s) (hh : s.halted = false) (hv : s.rspv = false) {r : Request} {p : Response}
    (ha : Answers s.build (requestOutcome s.build r) p) (hp : p.status ≠ .fault) : Inv ((s.latch r).hold p) where
  maskSize := ha.1
  noRecord := h.noRecord
  record := h.record
  infoRange := h.infoRange
  held := fun _ => ha
  heldFault := fun _ => by simp [hh, hp]
  takenFault := fun _ h => nomatch h
  pending := rfl
  past := ⟨by simp [h.pending, hv], h.past⟩

/-- Accept (R90) of a request that faults (R203). -/
theorem Inv.latch_enterFault (h : Inv s) (hv : s.rspv = false) {r : Request} {c : Cause} {x : Byte}
    (ho : requestOutcome s.build r = .fault c x) (hc : c ≠ .none) (hx : x.toNat < Config.maxOut s.build) :
    Inv ((s.latch r).enterFault c x) := by
  have ha : Answers s.build (.fault c x) ((s.latch r).enterFault c x).rsp :=
    respond_answers (s := s.latch r) (o := .fault c x) trivial
  exact {
    maskSize := ha.1
    noRecord := fun h => nomatch h
    record := fun _ => hc
    infoRange := hx
    held := fun _ => ho ▸ ha
    heldFault := fun _ => ⟨⟨fun _ => rfl, fun _ => rfl⟩, fun _ => ⟨rfl, rfl⟩⟩
    takenFault := fun _ h => nomatch h
    pending := rfl
    past := ⟨by simp [h.pending, hv], h.past⟩ }

/-- Accept (R90), whatever the outcome: it fits the record (`requestOutcome_inRange`). -/
theorem Inv.latch_respond (h : Inv s) (hh : s.halted = false) (hv : s.rspv = false) (r : Request) :
    Inv ((s.latch r).respond (requestOutcome s.build r)) := by
  obtain ⟨n, hn⟩ := requestOutcome_inRange s.build r
  have ha := respond_answers (s := s.latch r) hn.fits
  cases ho : requestOutcome s.build r with
  | ok M => rw [ho] at ha; exact h.latch_hold hh hv (ho ▸ ha) (by simp [okResponse])
  | empty => rw [ho] at ha; exact h.latch_hold hh hv (ho ▸ ha) (by simp [emptyResponse])
  | fault c x =>
    rw [ho] at hn
    obtain ⟨hc, hx⟩ := hn
    exact h.latch_enterFault hv ho hc hx

/-- Everything a transaction can do keeps the invariant. -/
theorem Inv.moved {p : Pins} (h : Inv s) (hm : Moved s p t) : Inv t := by
  cases hm with
  | reset _ ht => exact ht ▸ (h.sample p).resetBlock
  | deliver _ hv _ ht => exact ht ▸ (h.sample p).deliver hv
  | accept r _ hh hv _ ht => exact ht ▸ (h.sample p).latch_respond hh hv r
  | idle _ _ _ ht => exact ht ▸ h.sample p

/-- Settles O50: each of the four transactions a step can make keeps the invariant. -/
theorem stepKeepsTheInvariant : Obligations.StepKeepsTheInvariant :=
  fun _ _ h hs => h.moved (step_cases hs).2

/-- Settles O48: the record is clear and the history empty right after reset, in either build. -/
theorem resetStateMeetsTheInvariant : Obligations.ResetStateMeetsTheInvariant :=
  ⟨inv_resetOf Config.defaultBuild, inv_resetOf⟩

end Sys2Proof.Machine
end

section
/-!
The status view `STS` (10_state.md R27): what each of its fields reads.
-/

namespace Sys2Proof.Machine

variable (s : State)

theorem sts_bit_halted : (sts s).getLsbD 0 = s.halted := by simp [sts, fieldAt]

theorem sts_bit_busy : (sts s).getLsbD 1 = s.rspv := by simp [sts, fieldAt]

theorem sts_reserved : (sts s).extractLsb' 2 2 = 0 := by
  ext i hi; simp only [sts, fieldAt]; interval_cases i <;> simp

theorem sts_cause : (sts s).extractLsb' 4 4 = causeCode s.faultCause := by
  ext i hi; simp only [sts, fieldAt]; interval_cases i <;> simp

theorem sts_info : (sts s).extractLsb' 8 8 = s.faultInfo := by
  ext i hi; simp only [sts, fieldAt]; interval_cases i <;> simp

theorem causeCode_le (c : Cause) : (causeCode c).toNat ≤ 8 := by cases c <;> decide

/-- `STS` is 0 when there is nothing to show. -/
theorem sts_of_cleared {s : State} (hh : s.halted = false) (hc : s.faultCause = .none) (hi : s.faultInfo = 0)
    (hv : s.rspv = false) : sts s = 0 := by
  simp [sts, hh, hc, hi, hv, causeCode, fieldAt]

/-- Settles O34: each field of `STS` is read back, and the invariant bounds INFO. -/
theorem statusViewLayout : Obligations.StatusViewLayout := by
  intro s
  refine ⟨sts_bit_halted s, sts_bit_busy s, sts_reserved s, sts_cause s, ?_, sts_info s, fun h => ?_⟩
  · rw [sts_cause]
    exact causeCode_le s.faultCause
  · rw [sts_info]
    exact Nat.le_sub_one_of_lt h.infoRange

/-- Settles O49: the reset values of R31, read off the state right after reset. -/
theorem resetValuesOfTheRecord : Obligations.ResetValuesOfTheRecord :=
  ⟨rfl, rfl, rfl, rfl, rfl, sts_of_cleared rfl rfl rfl rfl, rfl, rfl, rfl⟩

end Sys2Proof.Machine
end

section
/-!
The fault record (10_state.md R24, R25): which transactions write `HALTED`, and what a halted block keeps.
-/

namespace Sys2Proof.Machine

variable {s t : State}

/-- The end of an operation sets `HALTED` exactly on a fault, and never clears it. -/
theorem respond_halted_iff (s : State) (o : OpOutcome) :
    (s.respond o).halted = true ↔ s.halted = true ∨ ∃ c x, o = .fault c x := by
  cases o <;> simp

@[simp] theorem respond_history (s : State) (o : OpOutcome) : (s.respond o).history = s.history := by
  obtain ⟨-, -, -, -, h⟩ := respond_frame s o
  exact h

/-- A step that sets `HALTED` accepted a request that faults, and recorded the fault (R24, R203). -/
theorem step_sets_halted (h : step s = .next t) (hs : s.halted = false) (ht : t.halted = true) :
    ∃ r c x, s.pins.req = some r ∧ s.pins.rst = false ∧ s.rspv = false ∧ t.history = .accepted r :: s.history ∧
      requestOutcome s.build r = .fault c x ∧ t.faultCause = c ∧ t.faultInfo = x := by
  cases (step_cases h).2 with
  | reset _ heq => simp [heq] at ht
  | deliver _ _ _ heq => simp [heq, hs] at ht
  | accept r hr _ hv hq heq =>
    subst heq
    obtain h | ⟨c, x, ho⟩ := (respond_halted_iff _ _).mp ht
    · simp [hs] at h
    · exact ⟨r, c, x, hq, hr, hv, respond_history _ _, ho, by simp [ho]⟩
  | idle _ _ _ heq => simp [heq, hs] at ht

/-- A halted block without reset can only hand over its response or wait (R25, R203). -/
theorem step_of_halted (hs : s.halted = true) (hr : s.pins.rst = false) (h : step s = .next t) :
    (s.rspv = true ∧ t = (s.sample s.pins).deliver) ∨ t = s.sample s.pins := by
  cases (step_cases h).2 with
  | reset hr' _ => simp [hr] at hr'
  | deliver _ hv _ heq => exact .inl ⟨hv, heq⟩
  | accept _ _ hh _ _ _ => simp [hs] at hh
  | idle _ _ _ heq => exact .inr heq

/-- Without reset a halted block's fault record stays. -/
theorem step_of_halted_record (hs : s.halted = true) (hr : s.pins.rst = false) (h : step s = .next t) :
    SameRecord s t := by
  obtain ⟨-, rfl⟩ | rfl := step_of_halted hs hr h <;> exact ⟨rfl, rfl, rfl⟩

/-- A step that clears `HALTED` is a reset (R24). -/
theorem step_clears_halted (h : step s = .next t) (hs : s.halted = true) (ht : t.halted = false) :
    s.pins.rst = true := by
  by_contra hr
  obtain ⟨hkeep, -, -⟩ := step_of_halted_record hs (Bool.not_eq_true _ ▸ hr) h
  simp [hkeep, hs] at ht

/-- A step whose history shows an acceptance is the acceptance of that request. -/
theorem step_of_accepted {r : Request} (h : step s = .next t) (hist : t.history = .accepted r :: s.history) :
    t = ((s.sample s.pins).latch r).respond (requestOutcome s.build r) := by
  cases (step_cases h).2 with
  | reset _ heq => simp [heq] at hist
  | deliver _ _ _ heq => simp [heq] at hist
  | accept q _ _ _ _ heq =>
    have hq : q = r := by simpa [heq] using hist
    exact hq ▸ heq
  | idle _ _ _ heq => simp [heq] at hist

/-- Settles O44: a step sets HALTED by accepting a fault, clears it by reset, and an accepted fault sets it. -/
theorem haltedIsWrittenByFaultAndResetOnly : Obligations.HaltedIsWrittenByFaultAndResetOnly := by
  intro s t h
  refine ⟨step_sets_halted h, step_clears_halted h, fun r c x hist ho => ?_⟩
  rw [step_of_accepted h hist]
  exact (respond_halted_iff _ _).mpr (.inr ⟨c, x, ho⟩)

/-- Settles O45: a halted block delivers the response it holds or waits, and neither touches the record. -/
theorem haltedBlockKeepsItsRecord : Obligations.HaltedBlockKeepsItsRecord := by
  intro s t hs hr h
  refine ⟨step_of_halted_record hs hr h, ?_⟩
  obtain ⟨hv, rfl⟩ | rfl := step_of_halted hs hr h
  · exact ⟨rfl, rfl, rfl, fun hv' => by simp [hv] at hv'⟩
  · exact ⟨rfl, rfl, rfl, fun hv => ⟨hv, rfl⟩⟩

end Sys2Proof.Machine
end

section
/-!
The flat buses (20_memory.md R43): what a caller reads at the place of one entry.
-/

namespace Sys2Proof.Machine

/-- Reading `w` bits from `w * k` up on a bus of exactly the list's entries gives back entry `k`. -/
theorem extractLsb'_packEntries {w m k : Nat} {l : List (BitVec w)} (hm : w * l.length = m) (hk : k < l.length) :
    (BitVec.ofNat m (packEntries w l)).extractLsb' (w * k) w = l.getD k 0 := by
  have hlt : packEntries w l < 2 ^ m := hm ▸ packEntries_lt w l
  apply BitVec.eq_of_toNat_eq
  rw [BitVec.extractLsb'_toNat, BitVec.toNat_ofNat, Nat.mod_eq_of_lt hlt, Nat.shiftRight_eq_div_pow,
    packEntries_get w l k hk, List.getD_eq_getElem l 0 hk]

theorem maskBus_entry {b : Build} {p : Response} {k : Nat} (hlen : p.mask.length = Config.maxOut b)
    (hk : k < Config.maxOut b) : (maskBus b p).extractLsb' (8 * k) 8 = p.mask.getD k 0 :=
  extractLsb'_packEntries (by rw [hlen]) (hk.trans_eq hlen.symm)

theorem tblBus_entry (r : Request) {k : Nat} (hk : k < Config.maxTbl) :
    (tblBus r).extractLsb' (64 * k) 64 = tblEntry r.tbl k :=
  have hlen : r.tbl.toList.length = Config.maxTbl := r.tbl.length_toList
  extractLsb'_packEntries (by rw [hlen, Config.maxTbl]) (hk.trans_eq hlen.symm)

/-- Settles O35: each bus is its list of entries packed from the low end, so an entry's place reads that entry back. -/
theorem busesPackEntriesLowFirst : Obligations.BusesPackEntriesLowFirst :=
  ⟨fun _ _ _ hlen hk => maskBus_entry hlen hk, fun r _ hk => tblBus_entry r hk⟩

end Sys2Proof.Machine
end

section
/-!
The order of a run (20_memory.md R44): what a right history says of the requests accepted and the responses delivered.
-/

namespace Sys2Proof.Machine

variable {b : Build}

/-- In a right history the requests accepted since the latest reset are the one outstanding, if any, and then those
answered since. -/
theorem acceptedRequests_sinceReset {h : List Observation} (hr : HistoryRight b h) :
    acceptedRequests (sinceReset h) = (outstanding h).toList ++ answeredRequests (sinceReset h) := by
  induction h with
  | nil => rfl
  | cons o h ih =>
    cases o with
    | accepted r =>
      obtain ⟨hnone, hpast⟩ := hr
      have hall := ih hpast
      rw [hnone] at hall
      exact congrArg (r :: ·) hall
    | delivered r p =>
      obtain ⟨hsome, -, hpast⟩ := hr
      have hall := ih hpast
      rw [hsome] at hall
      exact hall
    | reset => rfl

/-- In a right history the past of any event is right too. -/
theorem HistoryRight.tail {o : Observation} {h : List Observation} (hr : HistoryRight b (o :: h)) :
    HistoryRight b h := by
  cases o with
  | accepted r => exact hr.2
  | delivered r p => exact hr.2.2
  | reset => exact hr

/-- Every response a right history delivered is an answer to its request, resets or not. -/
theorem HistoryRight.answers {h : List Observation} {r : Request} {p : Response} (hr : HistoryRight b h)
    (hmem : .delivered r p ∈ h) : Answers b (requestOutcome b r) p := by
  induction h with
  | nil => simp at hmem
  | cons o h ih =>
    obtain rfl | hpast := List.mem_cons.mp hmem
    · obtain ⟨-, hanswers, -⟩ := hr
      exact hanswers
    · exact ih hr.tail hpast

/-- Settles O51: the invariant's history is right, and its outstanding request is the one the held response answers. -/
theorem responsesComeInAcceptanceOrder : Obligations.ResponsesComeInAcceptanceOrder := by
  intro s hs
  refine ⟨?_, fun r p => hs.past.answers⟩
  rw [acceptedRequests_sinceReset hs.past, hs.pending]
  cases s.rspv <;> rfl

end Sys2Proof.Machine
end

section
/-!
The decoder (30_encoding.md R60, R68, R70, R71): which words match a row of spec/opcode_table.json, and what any word
decodes to.
-/

namespace Sys2Proof

/-! ## Words that match a row -/

theorem reservedClear_iff (c : Cmd) : reservedClear c = true ↔ cmdRsv0 c = 0 ∧ cmdRsv1 c = 0 ∧ cmdRsv2 c = 0 := by
  simp [reservedClear, and_assoc]

/-- The mask 0x80F0FF keeps `OP`, `RSV0`, `RSV1` and `RSV2` (R60). -/
theorem masked_eq_fields (c : Cmd) : c &&& 0x80F0FF#64 =
    fieldAt 64 23 (cmdRsv2 c) ||| fieldAt 64 12 (cmdRsv1 c) ||| fieldAt 64 5 (cmdRsv0 c) ||| fieldAt 64 0 (cmdOp c) := by
  ext i hi
  simp only [fieldAt, cmdRsv0, cmdRsv1, cmdRsv2, cmdOp, BitVec.getElem_and]
  interval_cases i <;> simp

section
variable {c : Cmd} {o : Op} (h : c &&& 0x80F0FF#64 = (opCode o).setWidth 64)
include h

theorem cmdOp_of_row : cmdOp c = opCode o := by
  ext i hi
  have hbit := getLsbD_of_row h i
  interval_cases i <;> simpa [cmdOp] using hbit

theorem reservedClear_of_row : reservedClear c = true := by
  have hbit := getLsbD_of_row h
  refine (reservedClear_iff c).mpr ⟨?_, ?_, ?_⟩
  · ext i hi; specialize hbit (5 + i); simp only [cmdRsv0]; interval_cases i <;> simpa using hbit
  · ext i hi; specialize hbit (12 + i); simp only [cmdRsv1]; interval_cases i <;> simpa using hbit
  · ext i hi; specialize hbit (23 + i); simp only [cmdRsv2]; interval_cases i; simpa using hbit

/-- A word that matches a row decodes to the row's operation, read from the word's own fields. -/
theorem decode_of_row : decode c = .ok (instrOf o c) := decode_of_fields (cmdOp_of_row h) (reservedClear_of_row h)

end

/-- A word matches an operation's row exactly when its `OP` is the operation's and its reserved fields are 0 (R68, R70). -/
theorem row_iff (c : Cmd) (o : Op) :
    c &&& 0x80F0FF#64 = (opCode o).setWidth 64 ↔ cmdOp c = opCode o ∧ reservedClear c = true := by
  refine ⟨fun h => ⟨cmdOp_of_row h, reservedClear_of_row h⟩, fun ⟨hop, hr⟩ => ?_⟩
  obtain ⟨h0, h1, h2⟩ := (reservedClear_iff c).mp hr
  rw [masked_eq_fields, hop, h0, h1, h2]
  simp [fieldAt]

/-! ## Everything the decoder answers -/

theorem opOfCode_eq_some_iff (code : BitVec 5) (o : Op) : opOfCode code = some o ↔ code = opCode o := by
  revert code; cases o <;> decide

theorem opOfCode_eq_none_iff (code : BitVec 5) : opOfCode code = none ↔ code.toNat < 0x01 ∨ 0x0F < code.toNat := by
  revert code; decide

/-- A decoded word is an operation's reading of a word with that operation's `OP` and clear reserved fields. -/
theorem decode_eq_ok_iff (c : Cmd) (i : Instr) :
    decode c = .ok i ↔ ∃ o, cmdOp c = opCode o ∧ reservedClear c = true ∧ instrOf o c = i := by
  refine ⟨fun h => ?_, fun ⟨o, ho, hr, hi⟩ => hi ▸ decode_of_fields ho hr⟩
  unfold decode at h
  cases ho : opOfCode (cmdOp c) with
  | none => simp [ho] at h
  | some o =>
    cases hr : reservedClear c with
    | false => simp [ho, hr] at h
    | true => exact ⟨o, (opOfCode_eq_some_iff _ o).mp ho, rfl, by simpa [ho, hr] using h⟩

/-- `OP` is checked first (R71). -/
theorem decode_of_illegalOp {c : Cmd} (h : (cmdOp c).toNat < 0x01 ∨ 0x0F < (cmdOp c).toNat) :
    decode c = .error .illegalOp := by
  simp [decode, (opOfCode_eq_none_iff _).mpr h]

/-- The reserved fields are checked of a legal `OP` (R70). -/
theorem decode_of_reservedBits {c : Cmd} (hlo : 0x01 ≤ (cmdOp c).toNat) (hhi : (cmdOp c).toNat ≤ 0x0F)
    (h : cmdRsv0 c ≠ 0 ∨ cmdRsv1 c ≠ 0 ∨ cmdRsv2 c ≠ 0) : decode c = .error .reservedBits := by
  have hop : opOfCode (cmdOp c) ≠ none := fun hn => by have := (opOfCode_eq_none_iff _).mp hn; omega
  obtain ⟨o, ho⟩ := Option.ne_none_iff_exists'.mp hop
  have hr : reservedClear c = false := by
    rw [Bool.eq_false_iff, ne_eq, reservedClear_iff]
    tauto
  simp [decode, ho, hr]

/-! ## The statements -/

/-- Settles O2: a decoded word's operation is the one its `OP` names, and the row is that `OP` with the reserved fields 0. -/
theorem decodeAcceptsExactlyTheTableRows : Obligations.DecodeAcceptsExactlyTheTableRows := by
  refine fun c o => ⟨fun ⟨i, hd, hi⟩ => ?_, fun h => ⟨_, decode_of_row h, op_instrOf o c⟩⟩
  obtain ⟨o', ho, hr, rfl⟩ := (decode_eq_ok_iff c i).mp hd
  rw [op_instrOf] at hi
  exact (row_iff c o).mpr ⟨hi ▸ ho, hr⟩

/-- Settles O58: each of the ten rows is read from the fields `instrOf` names. -/
theorem commandFieldsReachTheirOperands : Obligations.CommandFieldsReachTheirOperands :=
  ⟨rfl, rfl, fun _ => ⟨decode_of_row (o := .movhl), decode_of_row (o := .movlh), decode_of_row (o := .align),
    decode_of_row (o := .permi), decode_of_row (o := .shufp), decode_of_row (o := .unpckh), decode_of_row (o := .unpckl),
    decode_of_row (o := .blend), decode_of_row (o := .bshufc), decode_of_row (o := .bshufr)⟩⟩

/-- Settles O3: the decoder run on each word of 95_test_vectors.md section 2. -/
theorem writtenOutWordsDecode : Obligations.WrittenOutWordsDecode :=
  ⟨rfl, rfl, rfl, rfl, rfl, rfl, rfl, rfl, rfl⟩

end Sys2Proof
end

section
/-!
The encoder (30_encoding.md R60, R74 to R77): every operand is read back from the field it is put in, and a command word is
the sum of its shifted fields.
-/

namespace Sys2Proof

/-! ## Every operand read back -/

/-- The shape of a word that carries one is its `VB` and `EB`. -/
theorem shape_shapeCommand (o : Op) (vb : VecWidth) (eb : EltWidth) (imm : Imm) :
    vecWidthOfCode (cmdVb (shapeCommand o vb eb imm)) = vb ∧ eltWidthOfCode (cmdEb (shapeCommand o vb eb imm)) = eb := by
  rw [shapeCommand, cmdVb_command, cmdEb_command, vecWidthOfCode_code, eltWidthOfCode_code]
  exact ⟨rfl, rfl⟩

theorem cmdImm_shapeCommand (o : Op) (vb : VecWidth) (eb : EltWidth) (imm : Imm) :
    cmdImm (shapeCommand o vb eb imm) = imm := cmdImm_command ..

theorem immSel_immOfSels (s0 s1 s2 s3 : BitVec 2) :
    immSel (immOfSels s0 s1 s2 s3) 0 = s0 ∧ immSel (immOfSels s0 s1 s2 s3) 2 = s1 ∧
      immSel (immOfSels s0 s1 s2 s3) 4 = s2 ∧ immSel (immOfSels s0 s1 s2 s3) 6 = s3 := by
  refine ⟨?_, ?_, ?_, ?_⟩ <;>
    (ext i hi; simp only [immSel, immOfSels, fieldAt]; interval_cases i <;> simp)

/-- The immediate of INSERT holds its operands where R74 puts them. -/
theorem insertImm_fields (zmask : BitVec 4) (countd counts : BitVec 2) :
    (cmdImm (encode (.insert zmask countd counts))).extractLsb' 0 4 = zmask ∧
      immSel (cmdImm (encode (.insert zmask countd counts))) 4 = countd ∧
      immSel (cmdImm (encode (.insert zmask countd counts))) 6 = counts := by
  rw [encode, cmdImm_command]
  refine ⟨?_, ?_, ?_⟩ <;> (ext i hi; simp only [immSel, fieldAt]; interval_cases i <;> simp)

/-- The immediate of PERM2X128 holds its operands where R75 puts them. -/
theorem perm2x128Imm_fields (vb : VecWidth) (eb : EltWidth) (sel0 : BitVec 2) (z0 : Bool) (sel1 : BitVec 2) (z1 : Bool) :
    let imm := cmdImm (encode (.perm2x128 vb eb sel0 z0 sel1 z1))
    immSel imm 0 = sel0 ∧ imm.getLsbD 3 = z0 ∧ immSel imm 4 = sel1 ∧ imm.getLsbD 7 = z1 := by
  rw [encode, cmdImm_shapeCommand]
  refine ⟨?_, ?_, ?_, ?_⟩
  · ext i hi; simp only [immSel, fieldAt]; interval_cases i <;> simp
  · simp [fieldAt]
  · ext i hi; simp only [immSel, fieldAt]; interval_cases i <;> simp
  · simp [fieldAt]

/-- The encoder's word decodes to its operation's reading of it. -/
theorem decode_encode_eq_instrOf (i : Instr) : decode (encode i) = .ok (instrOf i.op (encode i)) := by
  cases i <;> exact decode_command ..

/-- Every operand is read back from the fields the encoder puts it in. -/
theorem instrOf_encode (i : Instr) : instrOf i.op (encode i) = i := by
  cases i with
  | insert zmask countd counts =>
    obtain ⟨hz, hd, hs⟩ := insertImm_fields zmask countd counts
    simp only [Instr.op, instrOf, hz, hd, hs]
  | perm2x128 vb eb sel0 z0 sel1 z1 =>
    obtain ⟨hsel0, hz0, hsel1, hz1⟩ := perm2x128Imm_fields vb eb sel0 z0 sel1 z1
    simp only [Instr.op, instrOf, hsel0, hz0, hsel1, hz1]
    simp only [encode, shape_shapeCommand]
  | permhw | permlw => simp [instrOf, encode, Instr.op, shape_shapeCommand, cmdImm_shapeCommand, immSel_immOfSels]
  | permq => simp [instrOf, encode, Instr.op, cmdImm_command, immSel_immOfSels]
  | bshufc | bshufr => simp [instrOf, encode, Instr.op, cmdTlen_command, cmdTvec_command, cmdTebits_command]
  | align | permi | shufp | blend => simp [instrOf, encode, Instr.op, shape_shapeCommand, cmdImm_shapeCommand]
  | movhl | movlh | unpckh | unpckl => simp [instrOf, encode, Instr.op, shape_shapeCommand]

/-- Settles O1: the encoder's word decodes to its operation's reading, and that reading is the instruction. -/
theorem decodeOfEncodeIsTheInstruction : Obligations.DecodeOfEncodeIsTheInstruction := by
  intro i
  rw [decode_encode_eq_instrOf, instrOf_encode]

/-! ## The word as a number -/

/-- A field put above a number that lies below it adds to it. -/
theorem toNat_fieldAt_or {n lo : Nat} (v : BitVec n) (x : Cmd) (hx : x.toNat < 2 ^ lo) (hn : n + lo ≤ 64) :
    (fieldAt 64 lo v ||| x).toNat = v.toNat * 2 ^ lo + x.toNat := by
  have hv : v.toNat * 2 ^ lo < 2 ^ 64 :=
    calc v.toNat * 2 ^ lo < 2 ^ n * 2 ^ lo := by gcongr; exact v.isLt
      _ = 2 ^ (n + lo) := (Nat.pow_add ..).symm
      _ ≤ 2 ^ 64 := Nat.pow_le_pow_right (by decide) hn
  have hv' : v.toNat < 2 ^ 64 := (Nat.le_mul_of_pos_right _ (Nat.two_pow_pos lo)).trans_lt hv
  rw [BitVec.toNat_or, fieldAt, BitVec.toNat_shiftLeft, BitVec.toNat_setWidth, Nat.mod_eq_of_lt hv',
    Nat.shiftLeft_eq, Nat.mod_eq_of_lt hv, ← Nat.shiftLeft_eq, ← Nat.shiftLeft_add_eq_or_of_lt hx]

/-- Settles O4: each field lies above all that stand after it, so the `or` of the fields is their sum. -/
theorem commandWordIsAssembledFromItsFields : Obligations.CommandWordIsAssembledFromItsFields := by
  intro imm tebits tvec tlen eb vb op
  have hop := op.isLt
  have hvb := vb.isLt
  have heb := eb.isLt
  have htlen := tlen.isLt
  have htvec := (BitVec.ofBool tvec).isLt
  have htebits := tebits.isLt
  have h0 : (fieldAt 64 0 op).toNat = op.toNat := by simp [fieldAt]; omega
  have h1 := toNat_fieldAt_or (lo := 8) vb (fieldAt 64 0 op) (by omega) (by omega)
  have h2 := toNat_fieldAt_or (lo := 10) eb _ (h1.trans_lt (by omega)) (by omega)
  have h3 := toNat_fieldAt_or (lo := 16) tlen _ (h2.trans_lt (by omega)) (by omega)
  have h4 := toNat_fieldAt_or (lo := 22) (BitVec.ofBool tvec) _ (h3.trans_lt (by omega)) (by omega)
  have h5 := toNat_fieldAt_or (lo := 24) tebits _ (h4.trans_lt (by omega)) (by omega)
  have h6 := toNat_fieldAt_or (lo := 32) imm _ (h5.trans_lt (by omega)) (by omega)
  have hb : (BitVec.ofBool tvec).toNat = tvec.toNat := by cases tvec <;> rfl
  simp only [command, BitVec.or_assoc, h6, h5, h4, h3, h2, h1, h0, hb, Nat.add_assoc]

end Sys2Proof
end

section
/-!
How the assembler writes a request (30_encoding.md R85, R86), and the shapes a line names (R65).
-/

namespace Sys2Proof.Machine

/-- The shape an operation reads from a word (R69). -/
theorem shape_instrOf (o : Op) (c : Cmd) : (instrOf o c).shape =
    if o.readsShape then some (vecWidthOfCode (cmdVb c), eltWidthOfCode (cmdEb c)) else none := by
  cases o <;> rfl

theorem tblEntry_tableOf (entries : List Nat) {k : Nat} (hk : k < Config.maxTbl) :
    tblEntry (tableOf entries) k = BitVec.ofNat 64 (entries.getD k 0) := by
  simp [tblEntry, tableOf, hk]

/-- The request assembled from the operands of a line and the given codes of its shape. -/
def AsmLine.request (a : AsmLine) (eb vb : BitVec 2) : Request :=
  { cmd := command a.imm a.tebits a.tvec a.tlen eb vb (opCode a.op), tbl := tableOf a.tbl }

theorem assemble_shaped (a : AsmLine) {vb : VecWidth} {eb : EltWidth} (hr : a.op.readsShape = true)
    (hs : a.shape = some (vb, eb)) : assemble a = .ok (a.request (eltWidthCode eb) (vecWidthCode vb)) := by
  simp [assemble, hr, hs, AsmLine.request]

theorem assemble_unshaped (a : AsmLine) (hr : a.op.readsShape = false) (hs : a.shape = none) :
    assemble a = .ok (a.request 0 0) := by
  simp [assemble, hr, hs, AsmLine.request]

/-- A line whose suffix fits its operation assembles to a request whose command reads the line's shape back. -/
theorem assemble_fits (a : AsmLine) (h : a.shape.isSome = a.op.readsShape) :
    ∃ eb vb, assemble a = .ok (a.request eb vb) ∧ (instrOf a.op (a.request eb vb).cmd).shape = a.shape := by
  cases hs : a.shape with
  | none =>
    have hr : a.op.readsShape = false := by simpa [hs] using h.symm
    exact ⟨0, 0, assemble_unshaped a hr hs, by simp [shape_instrOf, hr]⟩
  | some shape =>
    obtain ⟨vb, eb⟩ := shape
    have hr : a.op.readsShape = true := by simpa [hs] using h.symm
    refine ⟨_, _, assemble_shaped a hr hs, ?_⟩
    simp [shape_instrOf, hr, AsmLine.request, cmdVb_command, cmdEb_command, vecWidthOfCode_code, eltWidthOfCode_code]

theorem assemble_missingShape (a : AsmLine) (hr : a.op.readsShape = true) (hs : a.shape = none) :
    assemble a = .error .missingShape := by
  simp [assemble, hr, hs]

theorem assemble_unexpectedShape (a : AsmLine) (hr : a.op.readsShape = false) (hs : a.shape ≠ none) :
    assemble a = .error .unexpectedShape := by
  obtain ⟨shape, hs⟩ := Option.ne_none_iff_exists'.mp hs
  simp [assemble, hr, hs]

/-- Settles O5: a line that fits is one `command`, whose fields read back; the other lines are the assembler's two errors. -/
theorem assembledLineIsItsCommand : Obligations.AssembledLineIsItsCommand := by
  intro a
  refine ⟨fun h => ?_, assemble_missingShape a, assemble_unexpectedShape a⟩
  obtain ⟨eb, vb, ha, hshape⟩ := assemble_fits a h
  exact ⟨_, _, ha, decode_command .., op_instrOf .., hshape, cmdImm_command .., cmdTlen_command .., cmdTvec_command ..,
    cmdTebits_command .., fun _ hk => tblEntry_tableOf a.tbl hk⟩

/-- Settles O6: the table of R65 is computed, and the lane groups cover the positions. -/
theorem laneGeometryOfEveryShape : Obligations.LaneGeometryOfEveryShape := by
  refine ⟨fun vb eb => ?_, rfl⟩
  have hcover := numLanes_mul_laneElts vb eb
  exact ⟨rfl, rfl, Dvd.intro_left _ hcover, hcover⟩

end Sys2Proof.Machine
end

section
/-!
The frame's own faults (30_encoding.md R62, R70, R71): a word that is no instruction, and a shape the build does not admit.
-/

namespace Sys2Proof.Machine

/-! ## Words that are no instruction -/

theorem requestOutcome_of_error (b : Build) {r : Request} {e : Reject} (h : decode r.cmd = .error e) :
    requestOutcome b r = .fault (rejectCause e) 0 := by
  simp [requestOutcome, h]

theorem requestOutcome_of_ok (b : Build) {r : Request} {i : Instr} (h : decode r.cmd = .ok i) :
    requestOutcome b r = outcome b r.tbl i := by
  simp [requestOutcome, h]

/-- A request accepted whose word is no instruction takes the fault of its rejection. -/
theorem step_of_rejected {s : State} {r : Request} {e : Reject} (hr : s.pins.rst = false) (hq : s.pins.req = some r)
    (hh : s.halted = false) (hv : s.rspv = false) (hk : keepsRequest s.waiting s.pins.req = true)
    (he : decode r.cmd = .error e) :
    ∃ t, step s = .next t ∧ t.rspv = true ∧ Answers s.build (.fault (rejectCause e) 0) t.rsp ∧
      t.halted = true ∧ t.faultCause = rejectCause e ∧ t.faultInfo = 0 := by
  have hstep := step_of_accept hk hr hq hh hv
  rw [requestOutcome_of_error s.build he] at hstep
  exact ⟨_, hstep, rfl, respond_answers (s := (s.sample s.pins).latch r) (o := .fault _ 0) trivial, rfl, rfl, rfl⟩

/-- Settles O7: the decoder rejects the word whatever its other fields hold. -/
theorem illegalOpFaults : Obligations.IllegalOpFaults :=
  fun _ _ hr hq hh hv hk hop => step_of_rejected hr hq hh hv hk (decode_of_illegalOp hop)

/-- Settles O8: the decoder rejects a legal `OP` with a reserved field set. -/
theorem reservedBitsFault : Obligations.ReservedBitsFault :=
  fun _ _ hr hq hh hv hk hlo hhi hrsv => step_of_rejected hr hq hh hv hk (decode_of_reservedBits hlo hhi hrsv)

/-! ## The shape check -/

theorem require_ok_ne_badShape (p : Bool) (M : List Entry) (x : Byte) :
    require p .shapePrecond (.ok M) ≠ .fault .badShape x := by
  cases p <;> simp

theorem collect_align_ne_badShape (f : Nat → Option Entry) (ps : List Nat) (done : List Entry) (x : Byte) :
    collect .alignRange f ps done ≠ .fault .badShape x := by
  rcases collect_cases .alignRange f ps done with ⟨es, h, -⟩ | ⟨p, -, -, h⟩ <;> simp [h]

/-- An operation with a shape is the shape check and then its own rule, which raises no BAD_SHAPE (R62, R91). -/
theorem outcome_of_shape (b : Build) (tbl : Vector TblEntry Config.maxTbl) {i : Instr} {vb : VecWidth} {eb : EltWidth}
    (h : i.shape = some (vb, eb)) :
    ∃ rule, outcome b tbl i = readShape b vb eb rule ∧ ∀ g x, rule g ≠ .fault .badShape x := by
  cases i with
  | insert | permq | bshufc | bshufr => simp [Instr.shape] at h
  | movhl | movlh | permi | shufp | permhw | permlw | unpckh | unpckl =>
    cases h
    exact ⟨_, rfl, fun g x => require_ok_ne_badShape _ _ x⟩
  | align =>
    cases h
    simp only [outcome, alignOutcome]
    exact ⟨_, rfl, fun g x => collect_align_ne_badShape _ _ _ x⟩
  | blend =>
    cases h
    simp only [outcome, blendOutcome]
    exact ⟨_, rfl, fun g x => nofun⟩
  | perm2x128 =>
    cases h
    simp only [outcome, perm2x128Outcome]
    refine ⟨_, rfl, fun g x => ?_⟩
    split
    · nofun
    · exact require_ok_ne_badShape _ _ x

/-- Code 3 alone is refused, and in the narrow build alone (R62). -/
theorem admits_of_not_wide {b : Build} {vb : VecWidth} (h : vb ≠ vecWidthOfCode 3 ∨ b = .b512) : b.admits vb = true := by
  revert h; cases b <;> cases vb <;> decide

/-- Settles O9: BAD_SHAPE is the shape check's, which every operation with a shape begins with. -/
theorem wideShapeFaultsInNarrowBuild : Obligations.WideShapeFaultsInNarrowBuild := by
  refine ⟨rfl, fun vb => by cases vb <;> decide, fun i vb eb s hs => ?_⟩
  obtain ⟨rule, ho, hrule⟩ := outcome_of_shape s.build s.current.tbl hs
  refine ⟨fun hvb hb => takesFault_of_outcome ?_, fun hadm x => ?_⟩
  · rw [ho, readShape_of_not_admits]
    rw [hvb, hb]; rfl
  · rw [ho, readShape_of_admits]
    · exact hrule _ x
    · exact admits_of_not_wide hadm

end Sys2Proof.Machine
end

section
/-!
The indices a mask can hold (30_encoding.md R82, R83, 40_execution.md R95): each stays in the lanes of the sources its
operation reads, and so below the tag of bit 7.
-/

namespace Sys2Proof.Machine

/-- Every entry of the mask, if the outcome has one, is the zero sentinel or an index below `n`. -/
def OpOutcome.Below (n : Nat) : OpOutcome → Prop
  | .ok M => ∀ e ∈ M, e.below n
  | .empty => True
  | .fault _ _ => True

theorem require_below {n : Nat} {p : Bool} {c : Cause} {o : OpOutcome} (h : p = true → o.Below n) :
    (require p c o).Below n := by
  cases p with
  | true => exact h rfl
  | false => trivial

theorem readShape_below {n : Nat} {b : Build} {vb : VecWidth} {eb : EltWidth} {rule : Geometry → OpOutcome}
    (h : (rule (geometry vb eb)).Below n) : (readShape b vb eb rule).Below n := by
  unfold readShape
  split
  · trivial
  · exact h

theorem collect_below {n m : Nat} {cause : Cause} {f : Nat → Option Entry}
    (h : ∀ p < m, ∀ e, f p = some e → e.below n) : (collect cause f (positions 0 m) []).Below n := by
  rcases collect_cases cause f (positions 0 m) [] with ⟨es, hes, -, hmem⟩ | ⟨p, -, -, hp⟩
  · rw [hes]
    intro e he
    obtain ⟨p, hp, hf⟩ := hmem e he
    exact h p (mem_positions.mp hp).2 e hf
  · rw [hp]; trivial

/-! ## The pieces masks are built from -/

@[simp] theorem Entry.below_lane {n i : Nat} : (Entry.lane i).below n ↔ i < n := Iff.rfl

theorem lanes_below {a b bias n : Nat} (h : bias + b ≤ n) : ∀ e ∈ lanes a b bias, e.below n := by
  intro e he
  obtain ⟨i, hi, rfl⟩ := List.mem_map.mp he
  have := (mem_positions.mp hi).2
  simp only [Entry.below_lane]; omega

theorem append_below {n : Nat} {M M' : List Entry} (h : ∀ e ∈ M, e.below n) (h' : ∀ e ∈ M', e.below n) :
    ∀ e ∈ M ++ M', e.below n := fun e he => (List.mem_append.mp he).elim (h e) (h' e)

theorem flatMap_positions_below {n m : Nat} {f : Nat → List Entry} (h : ∀ q < m, ∀ e ∈ f q, e.below n) :
    ∀ e ∈ (positions 0 m).flatMap f, e.below n := by
  intro e he
  obtain ⟨q, hq, he⟩ := List.mem_flatMap.mp he
  exact h q (mem_positions.mp hq).2 e he

theorem wordPicks_below {base n : Nat} {sels : List (BitVec 2)} (h : base + 4 ≤ n) :
    ∀ e ∈ wordPicks base sels, e.below n := by
  intro e he
  obtain ⟨sel, -, rfl⟩ := List.mem_map.mp he
  have := sel.isLt
  simp only [Entry.below_lane]; omega

theorem interleave_below {n a b m : Nat} (h : b + n ≤ m) : ∀ e ∈ interleave n a b, e.below m := by
  intro e he
  obtain ⟨i, hi, he⟩ := List.mem_flatMap.mp he
  have := (mem_positions.mp hi).2
  rcases List.mem_pair.mp he with rfl | rfl <;> simp only [Entry.below_lane] <;> omega

theorem set_below {n k : Nat} {M : List Entry} {x : Entry} (h : ∀ e ∈ M, e.below n) (hx : x.below n) :
    ∀ e ∈ M.set k x, e.below n := by
  intro e he
  rcases List.mem_or_eq_of_mem_set he with he | rfl
  · exact h e he
  · exact hx

theorem foldl_set_zero_below {n : Nat} (zmask : BitVec 4) (ps : List Nat) {M : List Entry} (h : ∀ e ∈ M, e.below n) :
    ∀ e ∈ ps.foldl (fun M k => if zmask.getLsbD k then M.set k .zero else M) M, e.below n := by
  induction ps generalizing M with
  | nil => exact h
  | cons k ps ih =>
    rw [List.foldl_cons]
    refine ih ?_
    split
    · exact set_below h trivial
    · exact h

theorem insertMask_below (zmask : BitVec 4) (countd counts : BitVec 2) :
    ∀ e ∈ insertMask zmask countd counts, e.below 8 := by
  have := counts.isLt
  exact foldl_set_zero_below _ _ (set_below (lanes_below (by decide)) (Entry.below_lane.mpr (by omega)))

theorem drain_digit_lt {base k w d : Nat} (hb : 0 < base) (h : d ∈ (drain base k w).1) : d < base := by
  rw [drain_digits] at h
  obtain ⟨j, -, rfl⟩ := List.mem_map.mp h
  exact Nat.mod_lt _ hb

/-- Digits draw from their own lane group, so the entries of `groups` groups stay below `n` if each group's picks do. -/
theorem drainGroups_below {laneElts n groups : Nat} {imm : Imm} {picks : Nat → List Nat → List Entry} (hl : 0 < laneElts)
    (h : ∀ l digits, l + laneElts ≤ groups * laneElts → (∀ d ∈ digits, d < laneElts) → ∀ e ∈ picks l digits, e.below n)
    {left k : Nat} (w : Nat) (hk : k + left ≤ groups) : ∀ e ∈ drainGroups laneElts imm picks left k w, e.below n := by
  induction left generalizing k w with
  | zero => simp [drainGroups]
  | succ left ih =>
    refine append_below (h _ _ ?_ fun d hd => drain_digit_lt hl hd) (ih _ (by omega))
    rw [← Nat.succ_mul]
    exact Nat.mul_le_mul_right _ (by omega)

theorem permiPicks_below {l lane n : Nat} {digits : List Nat} (h : l + lane ≤ n) (hd : ∀ d ∈ digits, d < lane) :
    ∀ e ∈ permiPicks l digits, e.below n := by
  intro e he
  obtain ⟨d, hmem, rfl⟩ := List.mem_map.mp he
  have := hd d hmem
  simp only [Entry.below_lane]; omega

theorem shufpPicks_below {n half l lane : Nat} {digits : List Nat} (h : l + lane ≤ n) (hd : ∀ d ∈ digits, d < lane) :
    ∀ e ∈ shufpPicks n half l digits, e.below (2 * n) := by
  refine append_below ?_ ?_ <;> intro e he
  · obtain ⟨d, hmem, rfl⟩ := List.mem_map.mp he
    have := hd d (List.mem_of_mem_take hmem)
    simp only [Entry.below_lane]; omega
  · obtain ⟨d, hmem, rfl⟩ := List.mem_map.mp he
    have := hd d (List.mem_of_mem_drop hmem)
    simp only [Entry.below_lane]; omega

theorem alignEntry_below {g : Geometry} {shift p : Nat} {e : Entry} (h : alignEntry g shift p = some e) :
    e.below (2 * g.n) := by
  simp only [alignEntry, Option.ite_none_left_eq_some] at h
  obtain ⟨hlt, he⟩ := h
  cases he
  exact Nat.lt_of_not_le hlt

theorem blendEntry_below {n i : Nat} (imm : Imm) (h : i < n) : (blendEntry n imm i).below (2 * n) := by
  unfold blendEntry
  split <;> simp only [Entry.below_lane] <;> omega

/-- An index of a byte table stays in its own 16-byte half (R151). -/
theorem byteEntry_below {tbl : Vector TblEntry Config.maxTbl} {tlen : BitVec 6} (hlen : tableLenDomain tlen = true)
    {p : Nat} (hp : p < tlen.toNat) {e : Entry} (h : byteEntry tbl p = some e) : e.below tlen.toNat := by
  simp only [tableLenDomain, Bool.or_eq_true, beq_iff_eq] at hlen
  simp only [byteEntry] at h
  split at h
  · cases h; trivial
  · split at h
    · simp at h
    · cases h
      simp only [Entry.below_lane]
      split <;> omega

theorem rawTable_below (tlen : BitVec 6) (tbl : Vector TblEntry Config.maxTbl) : (rawTable tlen tbl).Below tlen.toNat :=
  require_below fun hlen => collect_below fun _ hp _ he => byteEntry_below hlen hp he

/-! ## The outcome of each operation -/

/-- The rule of an operation with a domain of shapes has the entries of its mask alone. -/
theorem shapeRule_below {b : Build} {vb : VecWidth} {eb : EltWidth} {n : Nat} {domain : Geometry → Bool}
    {mask : Geometry → List Entry} (h : ∀ e ∈ mask (geometry vb eb), e.below n) :
    (readShape b vb eb fun g => require (domain g) .shapePrecond (.ok (mask g))).Below n :=
  readShape_below (require_below fun _ => h)

/-- The end of lane group `k` is a position up to `N`. -/
theorem laneGroup_end_le {vb : VecWidth} {eb : EltWidth} {k : Nat} (hk : k < (geometry vb eb).numLanes) :
    k * (geometry vb eb).laneElts + (geometry vb eb).laneElts ≤ (geometry vb eb).n := by
  rw [← Nat.succ_mul, ← numLanes_mul_laneElts]
  exact Nat.mul_le_mul_right _ hk

section
variable (b : Build) (vb : VecWidth) (eb : EltWidth) (imm : Imm) (sel0 sel1 sel2 sel3 : BitVec 2)

theorem movhlOutcome_below : (movhlOutcome b vb eb).Below (2 * (geometry vb eb).n) :=
  shapeRule_below (domain := moveDomain) (append_below (lanes_below (by omega)) (lanes_below (by omega)))

theorem movlhOutcome_below : (movlhOutcome b vb eb).Below (2 * (geometry vb eb).n) :=
  shapeRule_below (domain := moveDomain) (append_below (lanes_below (by omega)) (lanes_below (by omega)))

theorem alignOutcome_below : (alignOutcome b vb eb imm).Below (2 * (geometry vb eb).n) :=
  readShape_below (rule := fun g => collect .alignRange (alignEntry g imm.toNat) (positions 0 g.n) [])
    (collect_below fun _ _ _ he => alignEntry_below he)

theorem permiOutcome_below : (permiOutcome b vb eb imm).Below (2 * (geometry vb eb).n) := by
  refine shapeRule_below (domain := digitDomain)
    (drainGroups_below (laneElts_pos vb eb) (fun l digits hl hd => ?_) _ (Nat.zero_add _).le)
  rw [numLanes_mul_laneElts] at hl
  exact permiPicks_below (by omega) hd

theorem shufpOutcome_below : (shufpOutcome b vb eb imm).Below (2 * (geometry vb eb).n) := by
  refine shapeRule_below (domain := digitDomain)
    (drainGroups_below (laneElts_pos vb eb) (fun l digits hl hd => ?_) _ (Nat.zero_add _).le)
  rw [numLanes_mul_laneElts] at hl
  exact shufpPicks_below hl hd

theorem permhwOutcome_below : (permhwOutcome b vb eb sel0 sel1 sel2 sel3).Below (2 * (geometry vb eb).n) :=
  shapeRule_below (domain := wordDomain) (flatMap_positions_below fun _ _ =>
    append_below (lanes_below (by omega)) (wordPicks_below (by omega)))

theorem permlwOutcome_below : (permlwOutcome b vb eb sel0 sel1 sel2 sel3).Below (2 * (geometry vb eb).n) :=
  shapeRule_below (domain := wordDomain) (flatMap_positions_below fun _ _ =>
    append_below (wordPicks_below (by omega)) (lanes_below (by omega)))

theorem unpckhOutcome_below : (unpckhOutcome b vb eb).Below (2 * (geometry vb eb).n) :=
  shapeRule_below (domain := pairDomain) (flatMap_positions_below fun k hk => interleave_below (by
    have := laneGroup_end_le hk; omega))

theorem unpcklOutcome_below : (unpcklOutcome b vb eb).Below (2 * (geometry vb eb).n) :=
  shapeRule_below (domain := pairDomain) (flatMap_positions_below fun k hk => interleave_below (by
    have := laneGroup_end_le hk; omega))

theorem perm2x128Outcome_below (z0 z1 : Bool) :
    (perm2x128Outcome b vb eb sel0 z0 sel1 z1).Below (2 * (geometry vb eb).n) := by
  refine readShape_below ?_
  split
  · trivial
  · refine require_below fun _ e he => ?_
    obtain ⟨sel, -, he⟩ := List.mem_flatMap.mp he
    refine lanes_below ?_ e he
    have hsel : sel.toNat ≤ 3 := Nat.le_of_lt_succ sel.isLt
    have := Nat.mul_le_mul_right ((geometry vb eb).n / 2) hsel
    omega

theorem blendOutcome_below : (blendOutcome b vb eb imm).Below (2 * (geometry vb eb).n) := by
  refine readShape_below fun e he => ?_
  obtain ⟨i, hi, rfl⟩ := List.mem_map.mp he
  exact blendEntry_below imm (mem_positions.mp hi).2

end

/-! ## Every outcome -/

/-- How many lanes the sources of an instruction have: those of source 1 for a byte table, else of both sources. -/
def sourceLanes (i : Instr) : Nat := if i.op.family = .byteTable then maskLength i else 2 * maskLength i

/-- Whatever its operands, an instruction's mask draws from the lanes of its sources (R95). -/
theorem outcome_below (b : Build) (tbl : Vector TblEntry Config.maxTbl) (i : Instr) :
    (outcome b tbl i).Below (sourceLanes i) := by
  cases i with
  | insert zmask countd counts => exact insertMask_below zmask countd counts
  | movhl vb eb => exact movhlOutcome_below b vb eb
  | movlh vb eb => exact movlhOutcome_below b vb eb
  | align vb eb imm => exact alignOutcome_below b vb eb imm
  | permi vb eb imm => exact permiOutcome_below b vb eb imm
  | shufp vb eb imm => exact shufpOutcome_below b vb eb imm
  | permhw vb eb sel0 sel1 sel2 sel3 => exact permhwOutcome_below b vb eb sel0 sel1 sel2 sel3
  | permlw vb eb sel0 sel1 sel2 sel3 => exact permlwOutcome_below b vb eb sel0 sel1 sel2 sel3
  | unpckh vb eb => exact unpckhOutcome_below b vb eb
  | unpckl vb eb => exact unpcklOutcome_below b vb eb
  | perm2x128 vb eb sel0 z0 sel1 z1 => exact perm2x128Outcome_below b vb eb sel0 sel1 z0 z1
  | bshufc tlen tvec tebits => exact require_below fun _ => rawTable_below tlen tbl
  | bshufr tlen => exact rawTable_below tlen tbl
  | blend vb eb imm => exact blendOutcome_below b vb eb imm
  | permq src0 src1 src2 src3 => exact wordPicks_below (n := 8) (by decide)

/-! ## Sources and tags of an OK mask -/

theorem requestOutcome_eq_ok {b : Build} {r : Request} {M : List Entry} (h : requestOutcome b r = .ok M) :
    ∃ i, decode r.cmd = .ok i ∧ outcome b r.tbl i = .ok M := by
  unfold requestOutcome at h
  split at h
  · exact ⟨_, ‹_›, h⟩
  · simp at h

section
variable {b : Build} {tbl : Vector TblEntry Config.maxTbl} {i : Instr} {M : List Entry}

theorem maskLength_of_ok (h : outcome b tbl i = .ok M) : M.length = maskLength i ∧ M.length ≤ Config.maxOut b := by
  have hr := outcome_inRange b tbl i
  rw [h] at hr
  exact ⟨hr.1, hr.1.trans_le hr.2⟩

theorem below_of_ok (h : outcome b tbl i = .ok M) {e : Entry} (he : e ∈ M) :
    e.below (2 * M.length) ∧ (i.op.family = .byteTable → e.below M.length) := by
  have hb := outcome_below b tbl i
  rw [h] at hb
  have hb := hb e he
  rw [sourceLanes, ← (maskLength_of_ok h).1] at hb
  cases e with
  | zero => exact ⟨trivial, fun _ => trivial⟩
  | lane k =>
    split at hb
    · exact ⟨by simp only [Entry.below_lane] at hb ⊢; omega, fun _ => hb⟩
    · exact ⟨hb, fun hf => absurd hf ‹_›⟩

end

theorem Entry.source_lane_of_lt {n j : Nat} (h : j < n) : (Entry.lane j).source n = some (1, j) := by
  simp [Entry.source, h]

theorem Entry.source_lane_of_le {n j : Nat} (h : n ≤ j) : (Entry.lane j).source n = some (2, j - n) := by
  simp [Entry.source, Nat.not_lt.mpr h]

/-- Settles O28: an index below `|M|` names source 1; from `|M|` on it names source 2, and no byte table has one. -/
theorem maskEntriesNameSourceLanes : Obligations.MaskEntriesNameSourceLanes := by
  intro b tbl i M h e he
  obtain ⟨hboth, hone⟩ := below_of_ok h he
  cases e with
  | zero => simp [Entry.source]
  | lane j =>
    simp only [Entry.below_lane] at hboth hone
    by_cases hj : j < M.length
    · rw [Entry.source_lane_of_lt hj]
      refine ⟨by simp, fun k j' heq => ?_⟩
      cases heq
      exact ⟨hj, .inl ⟨rfl, rfl⟩⟩
    · have hj := Nat.not_lt.mp hj
      rw [Entry.source_lane_of_le hj]
      refine ⟨by simp, fun k j' heq => ?_⟩
      cases heq
      refine ⟨by omega, .inr ⟨rfl, by rw [Nat.add_sub_cancel' hj], fun hf => ?_⟩⟩
      exact absurd (hone hf) (Nat.not_lt.mpr hj)

/-- The byte of an index below 128 has bit 7 clear and is the index (R82). -/
theorem Entry.toByte_lane {j : Nat} (h : j < 128) :
    (Entry.lane j).toByte.getLsbD 7 = false ∧ (Entry.lane j).toByte.toNat = j := by
  refine ⟨?_, ?_⟩
  · rw [Entry.toByte, BitVec.getLsbD_ofNat, Nat.testBit_lt_two_pow (by omega), Bool.and_false]
  · rw [Entry.toByte, BitVec.toNat_ofNat]
    omega

theorem maxOut_le (b : Build) : Config.maxOut b ≤ 64 := by cases b <;> decide

/-- Settles O29: an index an operation emits is below `2 * MAX_OUT`, so below 128. -/
theorem maskEntriesAreTagged : Obligations.MaskEntriesAreTagged := by
  intro b r M h e he
  obtain ⟨i, -, ho⟩ := requestOutcome_eq_ok h
  obtain ⟨-, hlen⟩ := maskLength_of_ok ho
  obtain ⟨hbelow, -⟩ := below_of_ok ho he
  cases e with
  | zero => decide
  | lane j =>
    have hj : j < 128 := by have := maxOut_le b; simp only [Entry.below_lane] at hbelow; omega
    obtain ⟨hbit, hnat⟩ := Entry.toByte_lane hj
    have hff : (Entry.lane j).toByte ≠ 0xFF := fun hff => by simp [hff] at hbit
    refine ⟨?_, iff_of_false (Bool.eq_false_iff.mp hbit) hff, iff_of_false hff nofun⟩
    rw [Entry.ofByte, hbit, hnat]
    rfl

end Sys2Proof.Machine
end

section
/-!
What an operation reads of a request (30_encoding.md R69): requests that agree on it have one outcome.
-/

namespace Sys2Proof.Machine

/-! ## The immediate -/

/-- A field of an immediate is its bits. -/
theorem extractLsb'_congr {imm imm' : Imm} {lo n : Nat}
    (h : ∀ k, lo ≤ k → k < lo + n → imm'.getLsbD k = imm.getLsbD k) : imm'.extractLsb' lo n = imm.extractLsb' lo n := by
  ext i hi
  simp only [BitVec.getElem_extractLsb']
  exact h (lo + i) (by omega) (by omega)

theorem getLsbD_of_low_byte {imm imm' : Imm} (h : imm'.extractLsb' 0 8 = imm.extractLsb' 0 8) {k : Nat} (hk : k < 8) :
    imm'.getLsbD k = imm.getLsbD k := by
  have hbit := congrArg (BitVec.getLsbD · k) h
  simpa [hk] using hbit

theorem blendOutcome_congr (b : Build) (vb : VecWidth) (eb : EltWidth) {imm imm' : Imm}
    (h : ∀ k < (geometry vb eb).n, imm'.getLsbD k = imm.getLsbD k) :
    blendOutcome b vb eb imm' = blendOutcome b vb eb imm := by
  have hmask : (positions 0 (geometry vb eb).n).map (blendEntry (geometry vb eb).n imm') =
      (positions 0 (geometry vb eb).n).map (blendEntry (geometry vb eb).n imm) :=
    List.map_congr_left fun k hk => by rw [blendEntry, blendEntry, h k (mem_positions.mp hk).2]
  simp only [blendOutcome, readShape, hmask]

/-! ## The table -/

theorem collect_congr {cause : Cause} {f f' : Nat → Option Entry} {ps : List Nat} (done : List Entry)
    (h : ∀ p ∈ ps, f' p = f p) : collect cause f' ps done = collect cause f ps done := by
  induction ps generalizing done with
  | nil => rfl
  | cons p ps ih =>
    simp only [collect, h p (List.mem_cons_self ..)]
    split
    · exact ih _ fun q hq => h q (List.mem_cons_of_mem _ hq)
    · rfl

theorem rawTable_congr {tlen : BitVec 6} {tbl tbl' : Vector TblEntry Config.maxTbl}
    (h : ∀ k < tlen.toNat, tblByte tbl' k = tblByte tbl k) : rawTable tlen tbl' = rawTable tlen tbl := by
  rw [rawTable, byteDecode, collect_congr (f := byteEntry tbl)]
  · rfl
  · intro p hp
    rw [byteEntry, h p (mem_positions.mp hp).2, byteEntry]

/-- Of the table an operation reads bits 7:0 of the entries below `TLEN`, and only a byte table does (R69, R81). -/
theorem outcome_congr_tbl (b : Build) {tbl tbl' : Vector TblEntry Config.maxTbl} {i : Instr}
    (h : i.op.family = .byteTable → ∀ k < maskLength i, tblByte tbl' k = tblByte tbl k) :
    outcome b tbl' i = outcome b tbl i := by
  cases i with
  | bshufc tlen tvec tebits => exact congrArg (require _ _) (rawTable_congr (h rfl))
  | bshufr tlen => exact rawTable_congr (h rfl)
  | _ => rfl

/-! ## Requests that agree on what their operation reads -/

section
variable {o : Op} {r r' : Request}

theorem ReadsTheSame.decode_eq (h : ReadsTheSame o r r') :
    decode r.cmd = .ok (instrOf o r.cmd) ∧ decode r'.cmd = .ok (instrOf o r'.cmd) := by
  obtain ⟨ho, hop, hr, hr', -⟩ := h
  have ho := (opOfCode_eq_some_iff _ o).mp ho
  exact ⟨decode_of_fields ho hr, decode_of_fields (hop.trans ho) hr'⟩

/-- Every operation but BLEND reads the same operands from both words. -/
theorem ReadsTheSame.instrOf_eq (h : ReadsTheSame o r r') (hne : o ≠ .blend) : instrOf o r'.cmd = instrOf o r.cmd := by
  obtain ⟨-, -, -, -, hshape, hlow, himm, hbits, -, hbshufc, hbshufr, -⟩ := h
  have hfield {lo n : Nat} (hlo : lo + n ≤ 8) (ho : o ∈ [.insert, .permhw, .permlw, .permq]) :
      (cmdImm r'.cmd).extractLsb' lo n = (cmdImm r.cmd).extractLsb' lo n :=
    extractLsb'_congr fun k _ hk => getLsbD_of_low_byte (hlow ho) (by omega)
  cases o with
  | insert | permq => simp [instrOf, immSel, hfield]
  | permhw | permlw =>
    obtain ⟨hvb, heb⟩ := hshape rfl
    simp [instrOf, immSel, hvb, heb, hfield]
  | movhl | movlh | unpckh | unpckl =>
    obtain ⟨hvb, heb⟩ := hshape rfl
    simp only [instrOf, hvb, heb]
  | align | permi | shufp =>
    obtain ⟨hvb, heb⟩ := hshape rfl
    simp only [instrOf, hvb, heb, himm (by decide)]
  | perm2x128 =>
    obtain ⟨hvb, heb⟩ := hshape rfl
    have hsel {lo : Nat} (hlo : lo = 0 ∨ lo = 4) : immSel (cmdImm r'.cmd) lo = immSel (cmdImm r.cmd) lo :=
      extractLsb'_congr fun k _ _ => hbits rfl k (by simp; omega)
    simp only [instrOf, hvb, heb, hsel (.inl rfl), hsel (.inr rfl), hbits rfl 3 (by decide), hbits rfl 7 (by decide)]
  | bshufc =>
    obtain ⟨hlen, hvec, hbits⟩ := hbshufc rfl
    simp only [instrOf, hlen, hvec, hbits]
  | bshufr => simp only [instrOf, hbshufr rfl]
  | blend => exact absurd rfl hne

/-- BLEND reads the same shape, and the same immediate bit for every lane. -/
theorem ReadsTheSame.blendOutcome_eq (h : ReadsTheSame .blend r r') (b : Build) (tbl : Vector TblEntry Config.maxTbl) :
    outcome b tbl (instrOf .blend r'.cmd) = outcome b tbl (instrOf .blend r.cmd) := by
  obtain ⟨-, -, -, -, hshape, -, -, -, hbits, -⟩ := h
  obtain ⟨hvb, heb⟩ := hshape rfl
  simp only [instrOf, outcome, hvb, heb]
  exact blendOutcome_congr b _ _ (hbits rfl)

/-- The table bytes an operation reads are the same. -/
theorem ReadsTheSame.tblByte_eq (h : ReadsTheSame o r r') (hf : (instrOf o r.cmd).op.family = .byteTable) :
    ∀ k < maskLength (instrOf o r.cmd), tblByte r'.tbl k = tblByte r.tbl k := by
  obtain ⟨-, -, -, -, -, -, -, -, -, -, -, htbl⟩ := h
  cases o with
  | bshufc | bshufr => exact htbl rfl
  | _ => cases hf

end

/-- Settles O32: the operands agree but for BLEND's bits above its lanes, and the table bytes agree where they are read. -/
theorem ignoredFieldsDoNotReachTheOutcome : Obligations.IgnoredFieldsDoNotReachTheOutcome := by
  intro b o r r' h
  obtain ⟨hd, hd'⟩ := h.decode_eq
  rw [requestOutcome_of_ok b hd, requestOutcome_of_ok b hd', ← outcome_congr_tbl b h.tblByte_eq]
  by_cases ho : o = .blend
  · subst ho
    exact h.blendOutcome_eq b r'.tbl
  · rw [h.instrOf_eq ho]

end Sys2Proof.Machine
end

section
/-!
The response header `RSPH` and the mask bus (30_encoding.md R84): what each field of them reads.
-/

namespace Sys2Proof.Machine

section
variable (p : Response)

theorem rsph_status : (rsph p).extractLsb' 0 2 = statusCode p.status := by
  ext i hi; simp only [rsph, fieldAt]; interval_cases i <;> simp

theorem rsph_len : (rsph p).extractLsb' 8 7 = p.len := by
  ext i hi; simp only [rsph, fieldAt]; interval_cases i <;> simp

theorem rsph_cause : (rsph p).extractLsb' 16 4 = causeCode p.cause := by
  ext i hi; simp only [rsph, fieldAt]; interval_cases i <;> simp

theorem rsph_info : (rsph p).extractLsb' 24 8 = p.info := by
  ext i hi; simp only [rsph, fieldAt]; interval_cases i <;> simp

theorem rsph_reserved : (rsph p).extractLsb' 2 6 = 0 ∧ (rsph p).extractLsb' 15 1 = 0 ∧ (rsph p).extractLsb' 20 4 = 0 := by
  refine ⟨?_, ?_, ?_⟩ <;> (ext i hi; simp only [rsph, fieldAt]; interval_cases i <;> simp)

end

/-- A mask entry stands at its place on the mask bus of a response that answers the mask. -/
theorem maskBus_of_answers {b : Build} {p : Response} {M : List Entry} (ha : Answers b (.ok M) p)
    (hM : M.length ≤ Config.maxOut b) {k : Nat} (hk : k < M.length) :
    (maskBus b p).extractLsb' (8 * k) 8 = (M.map Entry.toByte).getD k 0 := by
  obtain ⟨hsize, -, -, -, -, htake⟩ := ha
  rw [maskBus_entry hsize (hk.trans_le hM), ← htake, List.getD_eq_getElem?_getD, List.getD_eq_getElem?_getD,
    List.getElem?_take_of_lt hk]

/-- Settles O33: the header's fields read back the response's, which its outcome's row of R92 gives. -/
theorem responseHeaderLayout : Obligations.ResponseHeaderLayout := by
  intro b r p ha
  obtain ⟨hr0, hr1, hr2⟩ := rsph_reserved p
  refine ⟨hr0, hr1, hr2, ?_⟩
  obtain ⟨n, hfits⟩ := requestOutcome_inRange b r
  rw [rsph_status, rsph_len, rsph_cause, rsph_info]
  cases ho : requestOutcome b r with
  | ok M =>
    rw [ho] at ha hfits
    have hM : M.length ≤ Config.maxOut b := hfits.fits
    have ⟨_, hstatus, hlen, hcause, hinfo, _⟩ := ha
    have h128 : M.length < 2 ^ 7 := by have := maxOut_le b; omega
    have hlen : p.len.toNat = M.length := by rw [hlen, BitVec.toNat_ofNat, Nat.mod_eq_of_lt h128]
    exact ⟨by rw [hstatus]; rfl, hlen, hM, by rw [hcause]; rfl, hinfo, fun k hk => maskBus_of_answers ha hM hk⟩
  | empty =>
    rw [ho] at ha
    obtain ⟨-, hstatus, hlen, hcause, hinfo⟩ := ha
    exact ⟨by rw [hstatus]; rfl, hlen, by rw [hcause]; rfl, hinfo⟩
  | fault c x =>
    rw [ho] at ha
    obtain ⟨-, hstatus, hlen, hcause, hinfo⟩ := ha
    exact ⟨by rw [hstatus]; rfl, hlen, by rw [hcause], hinfo⟩

end Sys2Proof.Machine
end

section
/-!
How every operation ends (40_execution.md R92, R94, R95, R98): its outcome becomes the response, and an OK mask has the
operation's length and draws from its sources.
-/

namespace Sys2Proof.Machine

/-- Settles O25: `exec` answers the instruction's outcome, and every outcome fits the mask array. -/
theorem everyOperationEndsInItsOutcome : Obligations.EveryOperationEndsInItsOutcome := by
  intro i s
  refine ⟨_, exec_eq_respond i s, respond_rspv s _, respond_answers (outcome_inRange s.build s.current.tbl i).fits,
    respond_frame s _, ?_⟩
  cases outcome s.build s.current.tbl i with
  | ok | empty => exact respond_record nofun
  | fault c x => exact ⟨rfl, rfl, rfl⟩

/-! ## The OK mask -/

theorem tlen_of_rawTable_ok {tlen : BitVec 6} {tbl : Vector TblEntry Config.maxTbl} {M : List Entry}
    (h : rawTable tlen tbl = .ok M) : tlen.toNat = 16 ∨ tlen.toNat = 32 := by
  obtain ⟨hlen, -⟩ := require_ok h
  simpa [tableLenDomain] using hlen

/-- A byte table that decodes has one of the two lengths of R150. -/
theorem maskLength_of_byteTable_ok {b : Build} {tbl : Vector TblEntry Config.maxTbl} {i : Instr} {M : List Entry}
    (h : outcome b tbl i = .ok M) (hf : i.op.family = .byteTable) : maskLength i = 16 ∨ maskLength i = 32 := by
  cases i with
  | bshufc tlen tvec tebits => exact tlen_of_rawTable_ok (require_ok h).2
  | bshufr tlen => exact tlen_of_rawTable_ok h
  | _ => cases hf

/-- Settles O26: the mask has the operation's length, which for a byte table passed the length check. -/
theorem maskLengthIsTheLaneCount : Obligations.MaskLengthIsTheLaneCount := by
  intro b tbl i M h
  obtain ⟨hlen, -⟩ := maskLength_of_ok h
  exact ⟨hlen, fun hf => hlen ▸ maskLength_of_byteTable_ok h hf⟩

/-- Settles O27: every outcome's mask stays below the lanes of its sources (`outcome_below`). -/
theorem maskIndicesStayInTheSources : Obligations.MaskIndicesStayInTheSources :=
  fun _ _ _ _ h _ he => below_of_ok h he

end Sys2Proof.Machine
end

section
/-!
The transactions of the frame (40_execution.md R90, R93, R98, R99): what each leaves in the block, and what no other
one does.
-/

namespace Sys2Proof.Machine

variable {s t : State}

/-! ## Accept -/

/-- Accept's response is one R92 allows for what the block computes from the request, whatever word it carries. -/
theorem accept_answers (s : State) (p : Pins) (r : Request) : Answers s.build (requestOutcome s.build r)
    (((s.sample p).latch r).respond (requestOutcome s.build r)).rsp := by
  obtain ⟨n, hn⟩ := requestOutcome_inRange s.build r
  exact respond_answers (s := (s.sample p).latch r) hn.fits

/-- A step with Accept not enabled accepts nothing, and a request presented waits (R90). -/
theorem step_accepts_nothing (h : step s = .next t)
    (hn : ¬ (s.pins.rst = false ∧ s.halted = false ∧ s.rspv = false ∧ s.pins.req ≠ none)) :
    acceptedRequests t.history = acceptedRequests s.history ∧ t.waiting = s.pins.req := by
  cases (step_cases h).2 with
  | reset _ ht => subst ht; exact ⟨rfl, rfl⟩
  | deliver _ _ _ ht => subst ht; exact ⟨rfl, rfl⟩
  | accept r hr hh hv hq _ => exact absurd ⟨hr, hh, hv, by simp [hq]⟩ hn
  | idle _ _ _ ht => subst ht; exact ⟨rfl, rfl⟩

/-- Settles O37: Accept latches the request and responds, and no other transaction accepts one. -/
theorem acceptHoldsTheAnswer : Obligations.AcceptHoldsTheAnswer := by
  refine ⟨fun s r hr hq hh hv hk => ?_, fun _ _ => step_accepts_nothing⟩
  obtain ⟨hbuild, hcurrent, hwaiting, hinputs, hhistory⟩ :=
    respond_frame ((s.sample s.pins).latch r) (requestOutcome s.build r)
  refine ⟨_, step_of_accept hk hr hq hh hv, respond_rspv _ _, accept_answers s s.pins r, hbuild, hcurrent, hwaiting,
    hinputs, hhistory, ?_⟩
  cases requestOutcome s.build r with
  | ok | empty => exact respond_record (s := (s.sample s.pins).latch r) nofun
  | fault c x => exact ⟨rfl, rfl, rfl⟩

/-- Settles O36: `exec` responds with the decoded instruction's outcome, as Accept does with the request's. -/
theorem stepRunsTheDecodedInstruction : Obligations.StepRunsTheDecodedInstruction := by
  intro s r i hr hq hh hv hk hd
  rw [step_of_accept hk hr hq hh hv, exec_eq_respond, requestOutcome_of_ok s.build hd]
  rfl

/-- Settles O52: a word placed to be fetched is presented with Accept enabled. -/
theorem everyWordRunsAfterReset : Obligations.EveryWordRunsAfterReset := by
  intro s nbits w
  obtain ⟨t, hstep, hv, ha, -, hcurrent, -⟩ :=
    acceptHoldsTheAnswer.1 (s.withFetchWord nbits w) _ rfl rfl rfl rfl rfl
  exact ⟨t, hstep, hv, hcurrent, ha⟩

/-! ## Deliver -/

/-- A step with Deliver not enabled delivers nothing (R93). -/
theorem step_delivers_nothing (h : step s = .next t)
    (hn : ¬ (s.pins.rst = false ∧ s.rspv = true ∧ s.pins.rspReady = true)) :
    answeredRequests t.history = answeredRequests s.history := by
  cases (step_cases h).2 with
  | reset _ ht => subst ht; rfl
  | deliver hr hv hp _ => exact absurd ⟨hr, hv, hp⟩ hn
  | accept r _ _ _ _ ht => rw [ht, respond_history]; rfl
  | idle _ _ _ ht => subst ht; rfl

/-- Settles O39: Deliver records the response as it stands and clears RSPV alone, and no other transaction delivers. -/
theorem deliverHandsOverTheResponse : Obligations.DeliverHandsOverTheResponse :=
  ⟨fun _ hr hv ht hk => ⟨_, step_of_deliver hk hr hv ht, rfl, ⟨rfl, rfl, rfl⟩, rfl, rfl, rfl, rfl, rfl, rfl⟩,
    fun _ _ => step_delivers_nothing⟩

/-! ## No transaction -/

/-- Using up the pins is no step of the block. -/
theorem sameBlock_sample (s : State) (p : Pins) : SameBlock s (s.sample p) := ⟨⟨rfl, rfl, rfl⟩, rfl, rfl, rfl⟩

/-- Settles O41: with no transaction enabled a step only uses up its pins. -/
theorem idleStepLeavesTheBlock : Obligations.IdleStepLeavesTheBlock :=
  fun s hr hd hn hk hw => ⟨_, step_of_idle hk hr hd hn hw, sameBlock_sample s s.pins, rfl, rfl, rfl, rfl⟩

theorem stuck_iff (s : State) : s.stuck = true ↔ s.halted = true ∧ s.rspv = false := by simp [State.stuck]

theorem quiescent_iff (s : State) : s.quiescent = true ↔ s.rspv = false ∧ s.pins.req = none := by
  simp [State.quiescent]

/-- A stuck block without reset has nothing to hand over, and only uses up the pins (R99). -/
theorem step_of_stuck_block (hs : s.stuck = true) (hr : s.pins.rst = false) (h : step s = .next t) :
    t = s.sample s.pins := by
  obtain ⟨hh, hv⟩ := (stuck_iff s).mp hs
  obtain ⟨hv', -⟩ | ht := step_of_halted hh hr h
  · simp [hv] at hv'
  · exact ht

/-- A quiescent block without reset only uses up the pins (R99). -/
theorem step_of_quiescent (hs : s.quiescent = true) (hr : s.pins.rst = false)
    (hk : keepsRequest s.waiting s.pins.req = true) : step s = .next (s.sample s.pins) := by
  obtain ⟨hv, hq⟩ := (quiescent_iff s).mp hs
  exact step_of_idle hk hr (by simp [hv]) (.inl hq) (by simp [State.waitsForEver, hq])

/-- Settles O47: reset clears HALTED, and without it the block only uses up the pins of a stuck or a quiescent state. -/
theorem onlyResetLeavesAStuckState : Obligations.OnlyResetLeavesAStuckState := by
  refine ⟨fun s t hs h => ?_, fun s hs hr hk => ?_⟩
  · cases hr : s.pins.rst with
    | true =>
      rw [step_of_reset (step_cases h).1 hr] at h
      cases h
      exact .inl ⟨rfl, rfl⟩
    | false =>
      obtain rfl := step_of_stuck_block hs hr h
      exact .inr ⟨rfl, hs, sameBlock_sample s s.pins, rfl⟩
  · obtain ⟨-, hq⟩ := (quiescent_iff s).mp hs
    exact ⟨_, step_of_quiescent hs hr hk, sameBlock_sample s s.pins, rfl, hq⟩

end Sys2Proof.Machine
end

section
/-!
The answer depends on the request alone (40_execution.md R96): what R92 leaves free of a response no caller can read.
-/

namespace Sys2Proof.Machine

/-- The mask of an outcome, empty where R92 gives it none. -/
def OpOutcome.mask : OpOutcome → List Entry
  | .ok M => M
  | .empty => []
  | .fault _ _ => []

/-- Every response R92 allows for an outcome has the same header fields. -/
theorem header_of_answers {b : Build} {o : OpOutcome} {p q : Response} (hp : Answers b o p) (hq : Answers b o q) :
    p.status = q.status ∧ p.len = q.len ∧ p.cause = q.cause ∧ p.info = q.info := by
  cases o <;> simp_all [Answers]

/-- Below `LEN` a response R92 allows for an outcome holds the outcome's mask. -/
theorem take_len_of_answers {b : Build} {o : OpOutcome} {p : Response} (hp : Answers b o p) :
    p.mask.take p.len.toNat = (o.mask.map Entry.toByte).take p.len.toNat := by
  obtain ⟨-, hp⟩ := hp
  cases o with
  | ok M =>
    obtain ⟨-, hl, -, -, hm⟩ := hp
    have hle : p.len.toNat ≤ M.length := by simpa [hl] using Nat.mod_le M.length 128
    rw [OpOutcome.mask, ← hm, List.take_take, Nat.min_eq_left hle]
  | empty | fault =>
    obtain ⟨-, hl, -⟩ := hp
    simp [hl, OpOutcome.mask]

/-- Two responses R92 allows for one outcome differ at most in mask entries from `LEN` on. -/
theorem sameAnswer_of_answers {b : Build} {o : OpOutcome} {p q : Response} (hp : Answers b o p) (hq : Answers b o q) :
    SameAnswer p q := by
  obtain ⟨hstatus, hlen, hcause, hinfo⟩ := header_of_answers hp hq
  refine ⟨by simp only [rsph, hstatus, hlen, hcause, hinfo], ?_⟩
  rw [take_len_of_answers hp, take_len_of_answers hq, hlen]

/-- The fault record that an outcome leaves in a block not halted is the outcome's alone. -/
theorem respond_record_congr {s s' : State} (hh : s.halted = false) (hh' : s'.halted = false) (o : OpOutcome) :
    (s.respond o).halted = (s'.respond o).halted ∧ ((s.respond o).halted = true →
      (s.respond o).faultCause = (s'.respond o).faultCause ∧ (s.respond o).faultInfo = (s'.respond o).faultInfo) := by
  cases o with
  | ok | empty => simp [hh, hh']
  | fault c x => exact ⟨rfl, fun _ => ⟨rfl, rfl⟩⟩

/-- Requests that are equal, or alike in what their operation reads, have one outcome (R69). -/
theorem requestOutcome_congr (b : Build) {r r' : Request} (h : r' = r ∨ ∃ o, ReadsTheSame o r r') :
    requestOutcome b r' = requestOutcome b r := by
  obtain rfl | ⟨o, ho⟩ := h
  · rfl
  · exact ignoredFieldsDoNotReachTheOutcome b o r r' ho

/-- Settles O46: both blocks respond with one outcome, and R92 leaves free only what no caller reads. -/
theorem answerDependsOnTheRequestAlone : Obligations.AnswerDependsOnTheRequestAlone := by
  intro s s' r r' hb hreads hr hq hh hv hk hr' hq' hh' hv' hk'
  have ho : requestOutcome s'.build r' = requestOutcome s.build r := hb ▸ requestOutcome_congr s.build hreads
  have ha := accept_answers s s.pins r
  have ha' := accept_answers s' s'.pins r'
  refine ⟨_, _, step_of_accept hk hr hq hh hv, step_of_accept hk' hr' hq' hh' hv', ?_⟩
  rw [ho] at ha' ⊢
  rw [← hb] at ha'
  exact ⟨sameAnswer_of_answers ha ha',
    respond_record_congr (s := (s.sample s.pins).latch r) (s' := (s'.sample s'.pins).latch r') hh hh' _⟩

end Sys2Proof.Machine
end

section
/-!
Masks as functions of the position (40_execution.md R11): each piece the pseudocode builds a mask from, rewritten as
`maskOf`, and the two ends of an operation that has a domain of shapes.
-/

namespace Sys2Proof.Machine

/-! ## Positions -/

theorem positions_cons {a b : Nat} (h : a < b) : positions a b = a :: positions (a + 1) b := by
  have hlen : b - a = b - (a + 1) + 1 := by omega
  rw [positions, hlen, List.range'_succ, positions]

theorem positions_append {a m b : Nat} (ham : a ≤ m) (hmb : m ≤ b) :
    positions a m ++ positions m b = positions a b := by
  have happend := List.range'_append_1 (s := a) (m := m - a) (n := b - m)
  rw [Nat.add_sub_cancel' ham, Nat.add_comm (m - a), Nat.sub_add_sub_cancel hmb ham] at happend
  exact happend

/-! ## `maskOf` -/

@[simp] theorem length_maskOf (n : Nat) (f : Nat → Entry) : (maskOf n f).length = n := by simp [maskOf]

theorem maskOf_congr {m n : Nat} {f g : Nat → Entry} (hn : m = n) (h : ∀ p < n, f p = g p) :
    maskOf m f = maskOf n g := by
  subst hn
  exact List.map_congr_left fun p hp => h p (List.mem_range.mp hp)

theorem maskOf_append (m k : Nat) (f g : Nat → Entry) :
    maskOf m f ++ maskOf k g = maskOf (m + k) fun p => if p < m then f p else g (p - m) := by
  rw [maskOf, maskOf, maskOf, List.range_add, List.map_append, List.map_map]
  congr 1
  · exact List.map_congr_left fun p hp => (if_pos (List.mem_range.mp hp)).symm
  · exact List.map_congr_left fun p _ => by simp

/-- `m` groups of `k` entries: position `p` is place `p % k` of group `p / k`. -/
theorem flatMap_positions_maskOf {k : Nat} (hk : 0 < k) (m : Nat) (f : Nat → Nat → Entry) :
    ((positions 0 m).flatMap fun q => maskOf k (f q)) = maskOf (m * k) fun p => f (p / k) (p % k) := by
  induction m with
  | zero => simp [positions, maskOf]
  | succ m ih =>
    rw [positions_zero] at ih ⊢
    rw [List.range_succ, List.flatMap_append, ih, List.flatMap_singleton, maskOf_append]
    refine maskOf_congr (Nat.succ_mul m k).symm fun p hp => ?_
    split
    · rfl
    · next hge =>
      obtain ⟨i, rfl⟩ := Nat.exists_eq_add_of_le (Nat.le_of_not_lt hge)
      have hi : i < k := by rw [Nat.succ_mul] at hp; omega
      rw [Nat.add_sub_cancel_left, Nat.mul_comm m k, Nat.mul_add_div hk, Nat.mul_add_mod, Nat.div_eq_of_lt hi,
        Nat.mod_eq_of_lt hi, Nat.add_zero]

theorem maskOf_set (n k : Nat) (f : Nat → Entry) (e : Entry) :
    (maskOf n f).set k e = maskOf n fun p => if p = k then e else f p := by
  refine List.ext_getElem (by simp) fun p _ _ => ?_
  simp [maskOf, List.getElem_set, eq_comm]

/-! ## The pieces masks are built from -/

theorem lanes_eq_maskOf (a b bias : Nat) : lanes a b bias = maskOf (b - a) fun k => .lane (bias + (a + k)) := by
  simp [lanes, positions, maskOf, List.range'_eq_map_range]

theorem wordPicks_eq_maskOf (base : Nat) (sel0 sel1 sel2 sel3 : BitVec 2) :
    wordPicks base [sel0, sel1, sel2, sel3] = maskOf 4 fun k => .lane (base + ([sel0, sel1, sel2, sel3].getD k 0).toNat) :=
  rfl

/-- A zero mask applied to a mask of `n` entries zeroes the entries whose bit is set, wherever the loop passes. -/
theorem foldl_set_zero_maskOf (zmask : BitVec 4) (ps : List Nat) (n : Nat) (f : Nat → Entry) :
    ps.foldl (fun M k => if zmask.getLsbD k then M.set k .zero else M) (maskOf n f) =
      maskOf n fun p => if p ∈ ps ∧ zmask.getLsbD p = true then .zero else f p := by
  induction ps generalizing f with
  | nil => simp
  | cons k ps ih =>
    rw [List.foldl_cons]
    cases hz : zmask.getLsbD k with
    | false =>
      rw [if_neg nofun, ih]
      exact maskOf_congr rfl fun p _ => by grind
    | true =>
      rw [if_pos rfl, maskOf_set, ih]
      exact maskOf_congr rfl fun p _ => by grind

/-! ## The ends of an operation -/

/-- An OK outcome completes the instruction: its mask fits the mask array, as every outcome's does. -/
theorem completes_of_ok {i : Instr} {s : State} {M : List Entry} (h : outcome s.build s.current.tbl i = .ok M) :
    Completes i s M := completes_of_outcome h (maskLength_of_ok h).2

/-- In a shape the build admits, an operation whose rule is a domain and a mask completes with that mask inside the
domain and takes SHAPE_PRECOND outside it. -/
theorem ends_of_shapeRule {i : Instr} {s : State} {vb : VecWidth} {eb : EltWidth} {domain : Geometry → Bool}
    {mask : Geometry → List Entry} {listed : Bool} {f : Nat → Entry}
    (ho : outcome s.build s.current.tbl i =
      readShape s.build vb eb fun g => require (domain g) .shapePrecond (.ok (mask g)))
    (hb : s.build.admits vb = true) (hd : domain (geometry vb eb) = listed)
    (hM : domain (geometry vb eb) = true → mask (geometry vb eb) = maskOf (geometry vb eb).n f) :
    (listed = true → Completes i s (maskOf (geometry vb eb).n f)) ∧
      (listed = false → TakesFault i s .shapePrecond 0) := by
  rw [readShape_of_admits eb _ hb] at ho
  refine ⟨fun hl => completes_of_ok ?_, fun hl => takesFault_of_outcome ?_⟩
  · rw [ho, hM (hd.trans hl), hd, hl, require_true]
  · rw [ho, hd, hl, require_false]

end Sys2Proof.Machine
end

section
/-!
INSERT and PERMQ, which read no shape, and the moves MOVHL, MOVLH and PERM2X128 (41_immediate_decode.md R101 to R103,
R109, R110).
-/

namespace Sys2Proof.Machine

/-! ## INSERT and PERMQ -/

theorem insertMask_eq_maskOf (zmask : BitVec 4) (countd counts : BitVec 2) :
    insertMask zmask countd counts =
      maskOf 4 fun k =>
        if zmask.getLsbD k then .zero else if k = countd.toNat then .lane (4 + counts.toNat) else .lane k := by
  rw [insertMask, lanes_eq_maskOf, maskOf_set, foldl_set_zero_maskOf]
  exact maskOf_congr rfl fun p hp => by simp [hp]

/-- Settles O10: the mask is the one the rule builds, and the word's fields are those `instrOf` reads. -/
theorem insertAnswersItsMask : Obligations.InsertAnswersItsMask :=
  ⟨fun zmask countd counts _ => completes_of_ok (congrArg OpOutcome.ok (insertMask_eq_maskOf zmask countd counts)),
    fun _ => decode_of_row (o := .insert)⟩

/-- Settles O21: PERMQ's mask is the picks from the four lanes at 0. -/
theorem permqAnswersItsSelectors : Obligations.PermqAnswersItsSelectors := by
  refine ⟨fun src0 src1 src2 src3 s => completes_of_ok ?_, fun _ => decode_of_row (o := .permq)⟩
  simp only [outcome, permqOutcome, wordPicks_eq_maskOf, Nat.zero_add]

/-! ## MOVHL and MOVLH -/

theorem moveDomain_iff (g : Geometry) : moveDomain g = true ↔ g.numLanes = 1 ∧ g.n % 2 = 0 := by simp [moveDomain]

/-- The domain the machine computes is the list of shapes of R102. -/
theorem moveDomain_geometry (vb : VecWidth) (eb : EltWidth) : moveDomain (geometry vb eb) = oneGroupEven vb eb := by
  cases vb <;> cases eb <;> rfl

/-- Settles O11: two back halves of `N / 2` entries, source 2 first. -/
theorem movhlAnswersItsMask : Obligations.MovhlAnswersItsMask := by
  intro vb eb s hb
  refine ⟨by rw [← moveDomain_geometry, moveDomain_iff], ends_of_shapeRule (domain := moveDomain)
    (by rw [outcome, movhlOutcome]) hb (moveDomain_geometry vb eb) fun hd => ?_⟩
  have hn := half_n_of_moveDomain hd
  rw [lanes_eq_maskOf, lanes_eq_maskOf, maskOf_append]
  exact maskOf_congr (by omega) fun p hp => by grind

/-- Settles O12: two front halves of `N / 2` entries, source 1 first. -/
theorem movlhAnswersItsMask : Obligations.MovlhAnswersItsMask := by
  intro vb eb s hb
  refine ⟨by rw [← moveDomain_geometry, moveDomain_iff], ends_of_shapeRule (domain := moveDomain)
    (by rw [outcome, movlhOutcome]) hb (moveDomain_geometry vb eb) fun hd => ?_⟩
  have hn := half_n_of_moveDomain hd
  rw [lanes_eq_maskOf, lanes_eq_maskOf, maskOf_append]
  exact maskOf_congr (by omega) fun p hp => by grind

/-! ## PERM2X128 -/

/-- Two lane groups are the v256 shapes (R109). -/
theorem numLanes_eq_two (vb : VecWidth) (eb : EltWidth) : ((geometry vb eb).numLanes == 2) = twoGroups vb := by
  cases vb <;> rfl

theorem perm2x128Outcome_of_zeroing {b : Build} {vb : VecWidth} (eb : EltWidth) (sel0 sel1 : BitVec 2) {z0 z1 : Bool}
    (hb : b.admits vb = true) (hz : z0 = true ∨ z1 = true) : perm2x128Outcome b vb eb sel0 z0 sel1 z1 = .empty := by
  rw [perm2x128Outcome, readShape_of_admits _ _ hb, if_pos (by simpa using hz)]

theorem half_n_of_two_groups {vb : VecWidth} {eb : EltWidth} (h : ((geometry vb eb).numLanes == 2) = true) :
    (geometry vb eb).n / 2 * 2 = (geometry vb eb).n := by
  have hn := numLanes_mul_laneElts vb eb
  rw [beq_iff_eq.mp h] at hn
  omega

theorem perm2x128Outcome_of_copying (b : Build) (vb : VecWidth) (eb : EltWidth) (sel0 sel1 : BitVec 2) :
    perm2x128Outcome b vb eb sel0 false sel1 false = readShape b vb eb fun g =>
      require (g.numLanes == 2) .shapePrecond
        (.ok ([sel0, sel1].flatMap fun sel => lanes 0 (g.n / 2) (sel.toNat * (g.n / 2)))) := rfl

/-- The quarters a command of two lane groups copies. -/
theorem quarters_eq_maskOf {g : Geometry} (sel0 sel1 : BitVec 2) (hg : g.n / 2 * 2 = g.n) :
    ([sel0, sel1].flatMap fun sel => lanes 0 (g.n / 2) (sel.toNat * (g.n / 2))) =
      maskOf g.n fun p =>
        if p < g.n / 2 then .lane (sel0.toNat * (g.n / 2) + p) else .lane (sel1.toNat * (g.n / 2) + (p - g.n / 2)) := by
  simp only [List.flatMap_cons, List.flatMap_nil, List.append_nil, lanes_eq_maskOf, maskOf_append, Nat.sub_zero,
    Nat.zero_add]
  exact maskOf_congr (by omega) fun _ _ => rfl

/-- Settles O20: the zeroing bits are tested first, and without them the rule is a domain and two quarters. -/
theorem perm2x128CopiesQuartersOrAnswersEmpty : Obligations.Perm2x128CopiesQuartersOrAnswersEmpty := by
  refine ⟨fun vb eb sel0 z0 sel1 z1 s hb => ?_, fun _ => decode_of_row (o := .perm2x128)⟩
  obtain ⟨hin, hout⟩ := ends_of_shapeRule (i := .perm2x128 vb eb sel0 false sel1 false)
    (perm2x128Outcome_of_copying ..) hb (numLanes_eq_two vb eb)
    fun hd => quarters_eq_maskOf sel0 sel1 (half_n_of_two_groups hd)
  refine ⟨by rw [← numLanes_eq_two vb eb, beq_iff_eq], fun hz => completesEmpty_of_outcome
    (perm2x128Outcome_of_zeroing eb sel0 sel1 hb hz), ?_, ?_⟩
  · rintro rfl rfl
    exact hin
  · rintro rfl rfl
    exact hout

end Sys2Proof.Machine
end

section
/-!
ALIGN (41_immediate_decode.md R104): the index at each position, when it stays in the two sources, and where it first leaves
them.
-/

namespace Sys2Proof.Machine

/-- The index ALIGN reads at position `p`, as R104 states it: the next position of the lane group `shift` away, or its
continuation in source 2. -/
def alignIndex (g : Geometry) (shift p : Nat) : Nat :=
  if p % g.laneElts + shift < g.laneElts then p + shift else p + shift + g.n - g.laneElts

theorem alignEntry_eq (g : Geometry) (shift p : Nat) :
    alignEntry g shift p = if 2 * g.n ≤ alignIndex g shift p then none else some (.lane (alignIndex g shift p)) := by
  have hp := Nat.div_add_mod' p g.laneElts
  have hindex : (if g.laneElts ≤ p % g.laneElts + shift then p % g.laneElts + shift + g.n - g.laneElts
      else p % g.laneElts + shift) + p / g.laneElts * g.laneElts = alignIndex g shift p := by
    unfold alignIndex
    split <;> split <;> omega
  simp only [alignEntry, hindex]

theorem laneElts_le_n (vb : VecWidth) (eb : EltWidth) : (geometry vb eb).laneElts ≤ (geometry vb eb).n :=
  Nat.div_le_self _ _

/-- The lane group of a position ends within the vector. -/
theorem laneGroup_of_position_end_le {vb : VecWidth} {eb : EltWidth} {p : Nat} (hp : p < (geometry vb eb).n) :
    p / (geometry vb eb).laneElts * (geometry vb eb).laneElts + (geometry vb eb).laneElts ≤ (geometry vb eb).n :=
  laneGroup_end_le (Nat.div_lt_of_lt_mul (by rwa [Nat.mul_comm, numLanes_mul_laneElts]))

/-- Shifted by at most one lane group, every position reads within the two sources. -/
theorem alignIndex_lt {vb : VecWidth} {eb : EltWidth} {shift p : Nat} (hs : shift ≤ (geometry vb eb).laneElts)
    (hp : p < (geometry vb eb).n) : alignIndex (geometry vb eb) shift p < 2 * (geometry vb eb).n := by
  have hend := laneGroup_of_position_end_le hp
  have hdiv := Nat.div_add_mod' p (geometry vb eb).laneElts
  unfold alignIndex
  split <;> omega

/-- Shifted by more, the last position reads past both sources. -/
theorem alignIndex_last_ge {vb : VecWidth} {eb : EltWidth} {shift : Nat} (hs : (geometry vb eb).laneElts < shift) :
    2 * (geometry vb eb).n ≤ alignIndex (geometry vb eb) shift ((geometry vb eb).n - 1) := by
  have hle := laneElts_le_n vb eb
  unfold alignIndex
  split <;> omega

/-- A position that reads past both sources has a lowest one below it. -/
theorem exists_lowest_alignIndex_ge {g : Geometry} {shift m : Nat} (hm : 2 * g.n ≤ alignIndex g shift m) :
    ∃ p ≤ m, 2 * g.n ≤ alignIndex g shift p ∧ ∀ q < p, alignIndex g shift q < 2 * g.n :=
  have hex : ∃ p, 2 * g.n ≤ alignIndex g shift p := ⟨m, hm⟩
  ⟨Nat.find hex, Nat.find_min' hex hm, Nat.find_spec hex, fun _ hq => Nat.lt_of_not_le (Nat.find_min hex hq)⟩

/-- Settles O13: the loop ends in every index when each is below `2N`, and at the lowest position whose index is not. -/
theorem alignAnswersItsWindowOrFaults : Obligations.AlignAnswersItsWindowOrFaults := by
  intro vb eb imm s hb
  have ho : outcome s.build s.current.tbl (.align vb eb imm) =
      collect .alignRange (alignEntry (geometry vb eb) imm.toNat) (positions 0 (geometry vb eb).n) [] := by
    rw [outcome, alignOutcome, readShape_of_admits eb _ hb]
  refine ⟨fun hs => ?_, fun hs => ?_⟩
  · have hlt : ∀ p < (geometry vb eb).n, alignIndex (geometry vb eb) imm.toNat p < 2 * (geometry vb eb).n :=
      fun p hp => alignIndex_lt hs hp
    refine ⟨hlt, completes_of_ok ?_⟩
    rw [ho, collect_of_all (g := fun p => .lane (alignIndex (geometry vb eb) imm.toNat p)) fun p hp => ?_,
      positions_zero]
    · rfl
    · rw [alignEntry_eq, if_neg (Nat.not_le.mpr (hlt p (mem_positions.mp hp).2))]
  · obtain ⟨p, hp, hge, hlow⟩ := exists_lowest_alignIndex_ge (alignIndex_last_ge hs)
    have hpn : p < (geometry vb eb).n := by have := laneElts_pos vb eb; have := laneElts_le_n vb eb; omega
    refine ⟨p, hpn, hge, hlow, takesFault_of_outcome ?_⟩
    rw [ho, ← positions_append (Nat.zero_le p) hpn.le, positions_cons hpn]
    refine collect_of_first (fun q hq => ?_) (by rw [alignEntry_eq, if_pos hge])
    rw [alignEntry_eq, if_neg (Nat.not_le.mpr (hlow q (mem_positions.mp hq).2))]
    rfl

end Sys2Proof.Machine
end

section
/-!
PERMI and SHUFP (41_immediate_decode.md R105, R106): the digits of the immediate in closed form, across lane groups.
-/

namespace Sys2Proof.Machine

/-- Which digit of the immediate position `p` reads: its place in the lane group where the immediate is reloaded for every
group, else the position itself (R78). -/
def digitIndex (laneElts p : Nat) : Nat := if laneElts = 4 then p % laneElts else p

/-- The digit of the immediate that position `p` reads. -/
def digitAt (laneElts : Nat) (imm : Imm) (p : Nat) : Nat := imm.toNat / laneElts ^ digitIndex laneElts p % laneElts

/-- The digits drained at the start of group `k` are those of the group's positions. -/
theorem drain_reload_digits {laneElts k w : Nat} {imm : Imm}
    (hw : laneElts ≠ 4 → w = imm.toNat / laneElts ^ (k * laneElts)) :
    (drain laneElts laneElts (reload laneElts imm w)).1 =
      (List.range laneElts).map fun i => digitAt laneElts imm (k * laneElts + i) := by
  rw [drain_digits]
  refine List.map_congr_left fun i hi => ?_
  have hi := List.mem_range.mp hi
  by_cases h4 : laneElts = 4
  · simp only [reload, digitAt, digitIndex, if_pos h4, Nat.mul_add_mod', Nat.mod_eq_of_lt hi]
  · simp only [reload, digitAt, digitIndex, if_neg h4, hw h4, Nat.div_div_eq_div_mul, Nat.pow_add]

theorem drainGroups_succ (laneElts : Nat) (imm : Imm) (picks : Nat → List Nat → List Entry) (left k w : Nat) :
    drainGroups laneElts imm picks (left + 1) k w =
      picks (k * laneElts) (drain laneElts laneElts (reload laneElts imm w)).1 ++
        drainGroups laneElts imm picks left (k + 1) (drain laneElts laneElts (reload laneElts imm w)).2 := rfl

/-- The draining loop, group by group: each group's picks from the digits its positions read. -/
theorem drainGroups_eq_flatMap {laneElts : Nat} {imm : Imm} (picks : Nat → List Nat → List Entry) (left : Nat)
    {k w : Nat} (hw : laneElts ≠ 4 → w = imm.toNat / laneElts ^ (k * laneElts)) :
    drainGroups laneElts imm picks left k w = (positions k (k + left)).flatMap fun q =>
      picks (q * laneElts) ((List.range laneElts).map fun i => digitAt laneElts imm (q * laneElts + i)) := by
  induction left generalizing k w with
  | zero => simp [drainGroups, positions]
  | succ left ih =>
    have hnext : laneElts ≠ 4 → (drain laneElts laneElts (reload laneElts imm w)).2 =
        imm.toNat / laneElts ^ ((k + 1) * laneElts) := fun h4 => by
      rw [drain_left, reload, if_neg h4, hw h4, Nat.div_div_eq_div_mul, ← Nat.pow_add, Nat.succ_mul]
    have hsplit : positions k (k + (left + 1)) = k :: positions (k + 1) (k + 1 + left) := by
      rw [positions_cons (by omega), Nat.add_right_comm k 1 left, Nat.add_assoc k left 1]
    rw [drainGroups_succ, drain_reload_digits hw, ih hnext, hsplit, List.flatMap_cons]

/-- The draining loop over the whole mask, for picks that make an entry of a group's base, a place in it and the
digit there. -/
theorem drainGroups_eq_maskOf {laneElts : Nat} {imm : Imm} {picks : Nat → List Nat → List Entry}
    {entry : Nat → Nat → Nat → Entry} (hl : 0 < laneElts)
    (hp : ∀ l d, picks l ((List.range laneElts).map d) = maskOf laneElts fun i => entry l i (d i)) (groups : Nat) :
    drainGroups laneElts imm picks groups 0 imm.toNat = maskOf (groups * laneElts) fun p =>
      entry (p / laneElts * laneElts) (p % laneElts) (digitAt laneElts imm p) := by
  rw [drainGroups_eq_flatMap picks groups fun _ => by simp]
  simp only [hp, Nat.zero_add]
  rw [flatMap_positions_maskOf hl]
  simp only [Nat.div_add_mod']

theorem permiPicks_eq_maskOf (laneElts l : Nat) (d : Nat → Nat) :
    permiPicks l ((List.range laneElts).map d) = maskOf laneElts fun i => .lane (l + d i) := by
  simp [permiPicks, maskOf]

/-- SHUFP's entry at place `i` of the group with base `l`, for the digit `d`: source 1 in the front half (R106). -/
def shufpEntry (g : Geometry) (l i d : Nat) : Entry := .lane (l + (if i < g.laneElts / 2 then 0 else g.n) + d)

theorem shufpPicks_eq_maskOf (g : Geometry) (l : Nat) (d : Nat → Nat) :
    shufpPicks g.n (g.laneElts / 2) l ((List.range g.laneElts).map d) =
      maskOf g.laneElts fun i => shufpEntry g l i (d i) := by
  have hhalf : g.laneElts / 2 + (g.laneElts - g.laneElts / 2) = g.laneElts := by omega
  have hsplit : List.range g.laneElts = List.range (g.laneElts / 2) ++
      (List.range (g.laneElts - g.laneElts / 2)).map (g.laneElts / 2 + ·) := by
    rw [← List.range_add, hhalf]
  rw [shufpPicks, ← List.map_take, ← List.map_drop, hsplit, List.take_left' List.length_range,
    List.drop_left' List.length_range]
  simp only [List.map_map]
  refine (maskOf_append _ _ _ _).trans (maskOf_congr hhalf fun p _ => ?_)
  simp only [shufpEntry, Function.comp_apply]
  split
  · rfl
  · next hge => rw [Nat.add_sub_cancel' (Nat.le_of_not_lt hge)]

theorem digitDomain_iff (g : Geometry) : digitDomain g = true ↔ g.laneElts = 2 ∨ g.laneElts = 4 ∨ g.laneElts = 8 := by
  simp [digitDomain, or_assoc]

/-- The domain the machine computes is the list of shapes of R105. -/
theorem digitDomain_geometry (vb : VecWidth) (eb : EltWidth) : digitDomain (geometry vb eb) = digitGroup vb eb := by
  cases vb <;> cases eb <;> rfl

/-- Settles O14: each position's pick is its group's base plus the digit it reads. -/
theorem permiAnswersItsDigits : Obligations.PermiAnswersItsDigits := by
  intro vb eb imm s hb
  refine ⟨by rw [← digitDomain_geometry, digitDomain_iff], ends_of_shapeRule (domain := digitDomain)
    (by rw [outcome, permiOutcome]) hb (digitDomain_geometry vb eb) fun _ => ?_⟩
  rw [drainGroups_eq_maskOf (entry := fun l _ d => .lane (l + d)) (laneElts_pos vb eb) (permiPicks_eq_maskOf _),
    numLanes_mul_laneElts]
  rfl

/-- Settles O15: as PERMI, the back half of each group in source 2. -/
theorem shufpAnswersItsDigits : Obligations.ShufpAnswersItsDigits := by
  intro vb eb imm s hb
  refine ⟨by rw [← digitDomain_geometry, digitDomain_iff], ends_of_shapeRule (domain := digitDomain)
    (by rw [outcome, shufpOutcome]) hb (digitDomain_geometry vb eb) fun _ => ?_⟩
  rw [drainGroups_eq_maskOf (laneElts_pos vb eb) (shufpPicks_eq_maskOf (geometry vb eb)), numLanes_mul_laneElts]
  rfl

end Sys2Proof.Machine
end

section
/-!
PERMHW and PERMLW (41_immediate_decode.md R107, R108): groups of eight words, one half of each copied.
-/

namespace Sys2Proof.Machine

theorem wordDomain_iff (g : Geometry) : wordDomain g = true ↔ g.elt = 16 ∧ g.n % 8 = 0 := by simp [wordDomain]

/-- The domain the machine computes is the list of shapes of R107. -/
theorem wordDomain_geometry (vb : VecWidth) (eb : EltWidth) : wordDomain (geometry vb eb) = wordGroups vb eb := by
  cases vb <;> cases eb <;> rfl

/-- Settles O16: groups of eight, four copied and then four picked. -/
theorem permhwAnswersItsPicks : Obligations.PermhwAnswersItsPicks := by
  refine ⟨fun vb eb sel0 sel1 sel2 sel3 s hb => ?_, fun _ => decode_of_row (o := .permhw)⟩
  refine ⟨by rw [← wordDomain_geometry, wordDomain_iff], ends_of_shapeRule (domain := wordDomain)
    (by rw [outcome, permhwOutcome]) hb (wordDomain_geometry vb eb) fun hd => ?_⟩
  simp only [lanes_eq_maskOf, wordPicks_eq_maskOf, maskOf_append]
  rw [flatMap_positions_maskOf (by decide)]
  refine maskOf_congr (eighth_n_of_wordDomain hd) fun p _ => ?_
  have hp := Nat.div_add_mod p 8
  grind

/-- Settles O17: groups of eight, four picked and then four copied. -/
theorem permlwAnswersItsPicks : Obligations.PermlwAnswersItsPicks := by
  refine ⟨fun vb eb sel0 sel1 sel2 sel3 s hb => ?_, fun _ => decode_of_row (o := .permlw)⟩
  refine ⟨by rw [← wordDomain_geometry, wordDomain_iff], ends_of_shapeRule (domain := wordDomain)
    (by rw [outcome, permlwOutcome]) hb (wordDomain_geometry vb eb) fun hd => ?_⟩
  simp only [lanes_eq_maskOf, wordPicks_eq_maskOf, maskOf_append]
  rw [flatMap_positions_maskOf (by decide)]
  refine maskOf_congr (eighth_n_of_wordDomain hd) fun p _ => ?_
  have hp := Nat.div_add_mod p 8
  grind

end Sys2Proof.Machine
end

section
/-!
UNPCKH and UNPCKL (42_interleave.md R140 to R142): each lane group is filled with pairs of equal positions of the two
sources, from one of its halves.
-/

namespace Sys2Proof.Machine

/-- Positions from `a` on, each in pairs: source 1 at the even places and source 2 at the odd ones. -/
theorem interleave_eq_maskOf (n a b : Nat) :
    interleave n a b = maskOf ((b - a) * 2) fun p => .lane (a + p / 2 + if p % 2 = 0 then 0 else n) := by
  have hfrom : positions a b = (positions 0 (b - a)).map (a + ·) := by
    rw [positions_zero, positions, List.range'_eq_map_range]
  have hpair (i : Nat) : [Entry.lane i, .lane (i + n)] = maskOf 2 fun j => .lane (i + if j % 2 = 0 then 0 else n) := rfl
  simp only [interleave, hfrom, List.flatMap_map, hpair]
  rw [flatMap_positions_maskOf (by decide)]
  simp only [Nat.mod_mod]

/-- Lane groups each filled from positions `first l` to `last l - 1`, for the group's base `l`. -/
theorem interleaveGroups_eq_maskOf {laneElts : Nat} {first last : Nat → Nat} (hl : 0 < laneElts)
    (hfill : ∀ l, (last l - first l) * 2 = laneElts) (n groups : Nat) :
    ((positions 0 groups).flatMap fun k => interleave n (first (k * laneElts)) (last (k * laneElts))) =
      maskOf (groups * laneElts) fun p =>
        .lane (first (p / laneElts * laneElts) + p % laneElts / 2 + if p % 2 = 0 then 0 else n) := by
  have heven (p : Nat) : p % laneElts % 2 = p % 2 := Nat.mod_mod_of_dvd p (Dvd.intro_left _ (hfill 0))
  simp only [interleave_eq_maskOf, hfill]
  rw [flatMap_positions_maskOf hl]
  simp only [heven]

theorem pairDomain_iff (g : Geometry) : pairDomain g = true ↔ 2 ≤ g.laneElts := by simp [pairDomain]

/-- The domain the machine computes is the list of shapes of R140. -/
theorem pairDomain_geometry (vb : VecWidth) (eb : EltWidth) : pairDomain (geometry vb eb) = pairGroup vb eb := by
  cases vb <;> cases eb <;> rfl

/-- Settles O18: each group's pairs start at its middle and run to its end. -/
theorem unpckhAnswersItsPattern : Obligations.UnpckhAnswersItsPattern := by
  intro vb eb s hb
  refine ⟨by rw [← pairDomain_geometry, pairDomain_iff], ends_of_shapeRule (domain := pairDomain)
    (by rw [outcome, unpckhOutcome]) hb (pairDomain_geometry vb eb) fun hd => ?_⟩
  have hhalf := half_laneElts_of_pairDomain hd
  rw [← numLanes_mul_laneElts vb eb]
  exact interleaveGroups_eq_maskOf (first := (· + (geometry vb eb).laneElts / 2))
    (last := (· + (geometry vb eb).laneElts)) (laneElts_pos vb eb) (fun l => by omega) _ _

/-- Settles O19: each group's pairs start at its base and run to its middle. -/
theorem unpcklAnswersItsPattern : Obligations.UnpcklAnswersItsPattern := by
  intro vb eb s hb
  refine ⟨by rw [← pairDomain_geometry, pairDomain_iff], ends_of_shapeRule (domain := pairDomain)
    (by rw [outcome, unpcklOutcome]) hb (pairDomain_geometry vb eb) fun hd => ?_⟩
  have hhalf := half_laneElts_of_pairDomain hd
  rw [← numLanes_mul_laneElts vb eb]
  exact interleaveGroups_eq_maskOf (first := fun l => l) (last := (· + (geometry vb eb).laneElts / 2))
    (laneElts_pos vb eb) (fun l => by omega) _ _

end Sys2Proof.Machine
end

section
/-!
BSHUFC and BSHUFR (43_byte_table.md R150 to R153): which bytes of a table decode and to what, how the checks on form,
length and entries follow one another, and the ends the two operations share.
-/

namespace Sys2Proof.Machine

/-! ## One byte of the table -/

/-- Byte `k` of the table is one R151 decodes: it zeroes its position, or its low seven bits are an index of a 16-byte
half. -/
def ByteDecodes (tbl : Vector TblEntry Config.maxTbl) (k : Nat) : Prop :=
  (tblByte tbl k).getLsbD 7 = true ∨ (tblByte tbl k).toNat % 128 < 16

/-- The entry R151 gives position `k` when its byte decodes. -/
def decodedByte (tbl : Vector TblEntry Config.maxTbl) (k : Nat) : Entry :=
  if (tblByte tbl k).getLsbD 7 then .zero else .lane ((if k < 16 then 0 else 16) + (tblByte tbl k).toNat % 128)

section
variable {tbl : Vector TblEntry Config.maxTbl} {tlen : BitVec 6}

/-- The low seven bits of a byte, as the machine extracts them, are its value modulo 128. -/
theorem extractLsb'_low_seven_toNat (v : Byte) : (v.extractLsb' 0 7).toNat = v.toNat % 128 := by
  rw [BitVec.extractLsb'_toNat, Nat.shiftRight_zero]

theorem byteEntry_of_decodes {k : Nat} (h : ByteDecodes tbl k) : byteEntry tbl k = some (decodedByte tbl k) := by
  simp only [byteEntry, decodedByte, extractLsb'_low_seven_toNat]
  split
  · rfl
  · next hbit => rw [if_neg (Nat.not_le.mpr (h.resolve_left hbit))]

theorem byteEntry_of_not_decodes {k : Nat} (h : ¬ ByteDecodes tbl k) : byteEntry tbl k = none := by
  obtain ⟨hbit, hindex⟩ := not_or.mp h
  rw [byteEntry, extractLsb'_low_seven_toNat, if_neg hbit]
  exact if_pos (Nat.le_of_not_lt hindex)

/-! ## The checks, in order -/

/-- The length check passes 16 and 32 alone (R150). -/
theorem tableLenDomain_iff : tableLenDomain tlen = true ↔ tlen = 16 ∨ tlen = 32 := by
  simp [tableLenDomain, ← BitVec.toNat_inj]

theorem rawTable_of_bad_length (h16 : tlen ≠ 16) (h32 : tlen ≠ 32) : rawTable tlen tbl = .fault .tblLen 0 := by
  have hlen : tableLenDomain tlen = false :=
    Bool.eq_false_iff.mpr fun h => (tableLenDomain_iff.mp h).elim h16 h32
  rw [rawTable, hlen, require_false]

theorem rawTable_of_length (hlen : tlen = 16 ∨ tlen = 32) : rawTable tlen tbl = byteDecode tlen tbl := by
  rw [rawTable, tableLenDomain_iff.mpr hlen, require_true]

theorem byteDecode_of_all (h : ∀ k < tlen.toNat, ByteDecodes tbl k) :
    byteDecode tlen tbl = .ok (maskOf tlen.toNat (decodedByte tbl)) := by
  rw [byteDecode, collect_of_all fun k hk => byteEntry_of_decodes (h k (mem_positions.mp hk).2), positions_zero]
  rfl

/-- The decoder faults at the lowest byte that does not decode, the position in `INFO`. -/
theorem byteDecode_of_first {p : Nat} (hp : p < tlen.toNat) (hbad : ¬ ByteDecodes tbl p)
    (hlow : ∀ k < p, ByteDecodes tbl k) : byteDecode tlen tbl = .fault .tblIndex (BitVec.ofNat 8 p) := by
  rw [byteDecode, ← positions_append (Nat.zero_le p) hp.le, positions_cons hp]
  refine collect_of_first (fun k hk => ?_) (byteEntry_of_not_decodes hbad)
  rw [byteEntry_of_decodes (hlow k (mem_positions.mp hk).2)]
  rfl

theorem bshufcOutcome_of_bad_form {tvec : Bool} {tebits : BitVec 8} (h : tvec = false ∨ tebits ≠ 8) :
    bshufcOutcome tlen tvec tebits tbl = .fault .tblForm 0 := by
  have hform : (tvec && tebits.toNat == 8) = false := by
    rcases h with rfl | hbits
    · rfl
    · have hne : tebits.toNat ≠ 8 := fun heq => hbits (BitVec.eq_of_toNat_eq heq)
      rw [beq_false_of_ne hne, Bool.and_false]
  rw [bshufcOutcome, hform, require_false]

/-- A vector of bytes passes the form check, and what is left of BSHUFC is the rule of BSHUFR. -/
theorem bshufcOutcome_of_form {tvec : Bool} {tebits : BitVec 8} (hvec : tvec = true) (hbits : tebits = 8) :
    bshufcOutcome tlen tvec tebits tbl = rawTable tlen tbl := by
  subst hvec hbits
  rfl

end

/-! ## The ends of both operations -/

/-- An instruction whose outcome is the length check and the decoder takes TBL_LEN outside the two lengths, completes
with the decoded table where every byte decodes, and takes TBL_INDEX at the lowest byte that does not. -/
theorem ends_of_rawTable {i : Instr} {s : State} {tlen : BitVec 6}
    (ho : outcome s.build s.current.tbl i = rawTable tlen s.current.tbl) :
    (tlen ≠ 16 → tlen ≠ 32 → TakesFault i s .tblLen 0) ∧
    (tlen = 16 ∨ tlen = 32 → (∀ k < tlen.toNat, ByteDecodes s.current.tbl k) →
      Completes i s (maskOf tlen.toNat (decodedByte s.current.tbl))) ∧
    (tlen = 16 ∨ tlen = 32 → ∀ p < tlen.toNat, ¬ ByteDecodes s.current.tbl p →
      (∀ k < p, ByteDecodes s.current.tbl k) → TakesFault i s .tblIndex (BitVec.ofNat 8 p)) := by
  refine ⟨fun h16 h32 => takesFault_of_outcome ?_, fun hlen hall => completes_of_ok ?_,
    fun hlen p hp hbad hlow => takesFault_of_outcome ?_⟩
  · rw [ho, rawTable_of_bad_length h16 h32]
  · rw [ho, rawTable_of_length hlen, byteDecode_of_all hall]
  · rw [ho, rawTable_of_length hlen, byteDecode_of_first hp hbad hlow]

/-- Settles O22: past the form check, BSHUFC ends as BSHUFR does (`ends_of_rawTable`). -/
theorem bshufcDecodesItsTableOrFaults : Obligations.BshufcDecodesItsTableOrFaults := by
  intro tlen tvec tebits s
  have hends (hvec : tvec = true) (hbits : tebits = 8) :=
    ends_of_rawTable (i := .bshufc tlen tvec tebits) (s := s) (bshufcOutcome_of_form hvec hbits)
  refine ⟨fun hform => takesFault_of_outcome (bshufcOutcome_of_bad_form hform), fun hvec hbits => ?_,
    fun hvec hbits => ?_, fun hvec hbits => ?_⟩ <;> obtain ⟨hlength, hall, hfirst⟩ := hends hvec hbits
  · exact hlength
  · exact hall
  · exact hfirst

/-- Settles O23: BSHUFR is the length check and the decoder. -/
theorem bshufrDecodesItsTableOrFaults : Obligations.BshufrDecodesItsTableOrFaults :=
  fun _ _ => ends_of_rawTable rfl

end Sys2Proof.Machine
end

section
/-!
BLEND (44_blend.md R170): a bit of the immediate as a number, and the mask it selects lane by lane.
-/

namespace Sys2Proof.Machine

/-- Bit `k` of the immediate read as a digit of its value, at every `k`: past the last bit both read 0 (R9, R80). -/
theorem imm_getLsbD_iff (imm : Imm) (k : Nat) : imm.getLsbD k = true ↔ imm.toNat / 2 ^ k % 2 = 1 := by
  rw [← BitVec.testBit_toNat, Nat.testBit_eq_decide_div_mod_eq, decide_eq_true_iff]

theorem blendEntry_eq (n : Nat) (imm : Imm) (k : Nat) :
    blendEntry n imm k = if imm.toNat / 2 ^ k % 2 = 1 then .lane (n + k) else .lane k := by
  simp only [blendEntry, imm_getLsbD_iff]

theorem blendMask_eq_maskOf (n : Nat) (imm : Imm) :
    (positions 0 n).map (blendEntry n imm) =
      maskOf n fun k => if imm.toNat / 2 ^ k % 2 = 1 then .lane (n + k) else .lane k := by
  rw [positions_zero]
  exact maskOf_congr rfl fun k _ => blendEntry_eq n imm k

theorem blendOutcome_of_admits {b : Build} {vb : VecWidth} (eb : EltWidth) (imm : Imm) (hb : b.admits vb = true) :
    blendOutcome b vb eb imm = .ok ((positions 0 (geometry vb eb).n).map (blendEntry (geometry vb eb).n imm)) :=
  readShape_of_admits eb _ hb

/-- The value of an immediate has no digit from 32 up. -/
theorem imm_digit_past_end (imm : Imm) {k : Nat} (hk : 32 ≤ k) : imm.toNat / 2 ^ k % 2 = 0 := by
  have hlt : imm.toNat < 2 ^ k := imm.isLt.trans_le (Nat.pow_le_pow_right (by decide) hk)
  rw [Nat.div_eq_of_lt hlt]

/-- Settles O24: in an admitted shape BLEND has no other check, and its mask is selected bit by bit. -/
theorem blendAnswersItsSelectBits : Obligations.BlendAnswersItsSelectBits := by
  intro vb eb imm s hb
  refine ⟨completes_of_ok ?_, fun k hk => imm_digit_past_end imm hk⟩
  rw [outcome, blendOutcome_of_admits eb imm hb, blendMask_eq_maskOf]

end Sys2Proof.Machine
end

section
/-!
Which faults an operation can end in (60_exceptions.md R201): each check of a rule raises its own cause, and the loops alone
carry an information word, the position they stopped at.
-/

namespace Sys2Proof.Machine

variable {b : Build} {c : Cause} {x : Byte}

/-! ## The checks and the loops -/

/-- A loop over the first `n` positions faults with its own cause, at one of those positions. -/
theorem collect_fault {cause : Cause} {f : Nat → Option Entry} {n : Nat}
    (h : collect cause f (positions 0 n) [] = .fault c x) : c = cause ∧ x.toNat < n := by
  obtain ⟨es, hok, -, -⟩ | ⟨p, hp, -, hfault⟩ := collect_cases cause f (positions 0 n) []
  · simp [hok] at h
  · rw [hfault] at h
    cases h
    have hle : (BitVec.ofNat 8 p).toNat ≤ p := by simpa using Nat.mod_le p 256
    exact ⟨rfl, hle.trans_lt (mem_positions.mp hp).2⟩

/-- A precondition followed by a mask raises the precondition's cause alone. -/
theorem require_ok_fault {p : Bool} {cause : Cause} {M : List Entry} (h : require p cause (.ok M) = .fault c x) :
    c = cause ∧ x = 0 := by
  obtain ⟨-, hfault⟩ | ⟨-, hok⟩ := require_fault h
  · exact hfault
  · cases hok

/-- An operation whose rule raises SHAPE_PRECOND alone has the two faults of its shape. -/
theorem shape_fault {vb : VecWidth} {eb : EltWidth} {rule : Geometry → OpOutcome}
    (hrule : ∀ g, rule g = .fault c x → c = .shapePrecond ∧ x = 0) (h : readShape b vb eb rule = .fault c x) :
    (c = .badShape ∧ x = 0) ∨ (c = .shapePrecond ∧ x = 0) := by
  obtain ⟨-, hbad⟩ | ⟨-, hfault⟩ := readShape_fault h
  · exact .inl hbad
  · exact .inr (hrule _ hfault)

/-! ## The operations with checks of their own -/

theorem perm2x128Outcome_fault {vb : VecWidth} {eb : EltWidth} {sel0 sel1 : BitVec 2} {z0 z1 : Bool}
    (h : perm2x128Outcome b vb eb sel0 z0 sel1 z1 = .fault c x) :
    (c = .badShape ∧ x = 0) ∨ (c = .shapePrecond ∧ x = 0) := by
  refine shape_fault (fun g hg => ?_) h
  split at hg
  · cases hg
  · exact require_ok_fault hg

theorem alignOutcome_fault {vb : VecWidth} {eb : EltWidth} {imm : Imm} (h : alignOutcome b vb eb imm = .fault c x) :
    (c = .badShape ∧ x = 0) ∨ (c = .alignRange ∧ x.toNat < (geometry vb eb).n) := by
  obtain ⟨-, hbad⟩ | ⟨-, hloop⟩ := readShape_fault h
  · exact .inl hbad
  · exact .inr (collect_fault hloop)

theorem blendOutcome_fault {vb : VecWidth} {eb : EltWidth} {imm : Imm} (h : blendOutcome b vb eb imm = .fault c x) :
    c = .badShape ∧ x = 0 := by
  obtain ⟨-, hbad⟩ | ⟨-, hok⟩ := readShape_fault h
  · exact hbad
  · cases hok

theorem rawTable_fault {tlen : BitVec 6} {tbl : Vector TblEntry Config.maxTbl} (h : rawTable tlen tbl = .fault c x) :
    (c = .tblLen ∧ x = 0) ∨ (c = .tblIndex ∧ x.toNat < tlen.toNat) := by
  obtain ⟨-, hlen⟩ | ⟨-, hloop⟩ := require_fault h
  · exact .inl hlen
  · exact .inr (collect_fault hloop)

theorem bshufcOutcome_fault {tlen : BitVec 6} {tvec : Bool} {tebits : BitVec 8} {tbl : Vector TblEntry Config.maxTbl}
    (h : bshufcOutcome tlen tvec tebits tbl = .fault c x) :
    (c = .tblForm ∧ x = 0) ∨ (c = .tblLen ∧ x = 0) ∨ (c = .tblIndex ∧ x.toNat < tlen.toNat) := by
  obtain ⟨-, hform⟩ | ⟨-, hraw⟩ := require_fault h
  · exact .inl hform
  · exact .inr (rawTable_fault hraw)

/-! ## The table of R201 -/

/-- Settles O30: the checks and the loop of each operation's rule, one cause each, are the rows of R201 that name it. -/
theorem faultCausesByOperation : Obligations.FaultCausesByOperation := by
  intro b tbl i c x h
  cases i with
  | insert | permq => cases h
  | movhl | movlh | permi | shufp | permhw | permlw | unpckh | unpckl =>
    obtain ⟨hc, hx⟩ | ⟨hc, hx⟩ := shape_fault (fun _ => require_ok_fault) h
    · exact .inl ⟨hc, rfl, hx⟩
    · exact .inr (.inl ⟨hc, rfl, nofun, nofun, hx⟩)
  | perm2x128 =>
    obtain ⟨hc, hx⟩ | ⟨hc, hx⟩ := perm2x128Outcome_fault h
    · exact .inl ⟨hc, rfl, hx⟩
    · exact .inr (.inl ⟨hc, rfl, nofun, nofun, hx⟩)
  | blend =>
    obtain ⟨hc, hx⟩ := blendOutcome_fault h
    exact .inl ⟨hc, rfl, hx⟩
  | align =>
    obtain ⟨hc, hx⟩ | ⟨hc, hx⟩ := alignOutcome_fault h
    · exact .inl ⟨hc, rfl, hx⟩
    · exact .inr (.inr (.inr (.inr (.inr ⟨hc, rfl, hx⟩))))
  | bshufc =>
    obtain ⟨hc, hx⟩ | ⟨hc, hx⟩ | ⟨hc, hx⟩ := bshufcOutcome_fault h
    · exact .inr (.inr (.inl ⟨hc, rfl, hx⟩))
    · exact .inr (.inr (.inr (.inl ⟨hc, rfl, hx⟩)))
    · exact .inr (.inr (.inr (.inr (.inl ⟨hc, rfl, hx⟩))))
  | bshufr =>
    obtain ⟨hc, hx⟩ | ⟨hc, hx⟩ := rawTable_fault h
    · exact .inr (.inr (.inr (.inl ⟨hc, rfl, hx⟩)))
    · exact .inr (.inr (.inr (.inr (.inl ⟨hc, rfl, hx⟩))))

end Sys2Proof.Machine
end

section
/-!
EMPTY (60_exceptions.md R205, R202): no check and no loop ends in it, so PERM2X128's zeroing bits are its only source.
-/

namespace Sys2Proof.Machine

variable {b : Build}

/-! ## The checks and the loops -/

/-- A precondition adds no EMPTY to what follows it. -/
theorem require_empty {p : Bool} {cause : Cause} {o : OpOutcome} (h : require p cause o = .empty) : o = .empty := by
  cases p with
  | true => exact h
  | false => cases h

theorem collect_ne_empty (cause : Cause) (f : Nat → Option Entry) (ps : List Nat) (done : List Entry) :
    collect cause f ps done ≠ .empty := by
  obtain ⟨es, h, -, -⟩ | ⟨p, -, -, h⟩ := collect_cases cause f ps done <;> simp [h]

/-- An operation that reads the shape ends in EMPTY only in a shape the build admits, and as its rule does. -/
theorem readShape_empty {vb : VecWidth} {eb : EltWidth} {rule : Geometry → OpOutcome}
    (h : readShape b vb eb rule = .empty) : b.admits vb = true ∧ rule (geometry vb eb) = .empty := by
  cases hb : b.admits vb with
  | true => exact ⟨rfl, readShape_of_admits eb rule hb ▸ h⟩
  | false => simp [readShape_of_not_admits eb rule hb] at h

theorem require_ok_ne_empty {p : Bool} {cause : Cause} {M : List Entry} : require p cause (.ok M) ≠ .empty :=
  fun h => nomatch require_empty h

theorem shape_ne_empty {vb : VecWidth} {eb : EltWidth} {rule : Geometry → OpOutcome} (hrule : ∀ g, rule g ≠ .empty) :
    readShape b vb eb rule ≠ .empty := fun h => hrule _ (readShape_empty h).2

theorem alignOutcome_ne_empty (vb : VecWidth) (eb : EltWidth) (imm : Imm) : alignOutcome b vb eb imm ≠ .empty :=
  fun h => collect_ne_empty _ _ _ _ (readShape_empty h).2

theorem blendOutcome_ne_empty (vb : VecWidth) (eb : EltWidth) (imm : Imm) : blendOutcome b vb eb imm ≠ .empty :=
  fun h => nomatch (readShape_empty h).2

theorem rawTable_ne_empty (tlen : BitVec 6) (tbl : Vector TblEntry Config.maxTbl) : rawTable tlen tbl ≠ .empty :=
  fun h => collect_ne_empty _ _ _ _ (require_empty h)

/-! ## PERM2X128's zeroing bits -/

/-- The shape check comes before the zeroing bits, and they come before the operation's own domain (R202). -/
theorem perm2x128Outcome_empty_iff {vb : VecWidth} {eb : EltWidth} {sel0 sel1 : BitVec 2} {z0 z1 : Bool} :
    perm2x128Outcome b vb eb sel0 z0 sel1 z1 = .empty ↔ b.admits vb = true ∧ (z0 = true ∨ z1 = true) := by
  refine ⟨fun h => ?_, fun ⟨hb, hz⟩ => perm2x128Outcome_of_zeroing eb sel0 sel1 hb hz⟩
  obtain ⟨hb, hrule⟩ := readShape_empty h
  split at hrule
  · next hz => exact ⟨hb, by simpa using hz⟩
  · cases require_empty hrule

/-- PERM2X128 alone ends in EMPTY (R205). -/
theorem eq_perm2x128_of_empty {tbl : Vector TblEntry Config.maxTbl} {i : Instr} (h : outcome b tbl i = .empty) :
    ∃ vb eb sel0 z0 sel1 z1, i = .perm2x128 vb eb sel0 z0 sel1 z1 := by
  cases i with
  | perm2x128 => exact ⟨_, _, _, _, _, _, rfl⟩
  | insert | permq => cases h
  | movhl | movlh | permi | shufp | permhw | permlw | unpckh | unpckl =>
    exact absurd h (shape_ne_empty fun _ => require_ok_ne_empty)
  | align => exact absurd h (alignOutcome_ne_empty _ _ _)
  | blend => exact absurd h (blendOutcome_ne_empty _ _ _)
  | bshufc => exact absurd (require_empty h) (rawTable_ne_empty _ _)
  | bshufr => exact absurd h (rawTable_ne_empty _ _)

/-- The frame's own faults are no EMPTY: the word of such a request is an instruction. -/
theorem requestOutcome_empty_iff {r : Request} :
    requestOutcome b r = .empty ↔ ∃ i, decode r.cmd = .ok i ∧ outcome b r.tbl i = .empty := by
  unfold requestOutcome
  cases decode r.cmd <;> simp

/-- The zeroing bits of a decoded PERM2X128 are bits 3 and 7 of the immediate (R75). -/
theorem zeroing_of_decode {w : Cmd} {vb : VecWidth} {eb : EltWidth} {sel0 sel1 : BitVec 2} {z0 z1 : Bool}
    (h : decode w = .ok (.perm2x128 vb eb sel0 z0 sel1 z1)) :
    z0 = (cmdImm w).getLsbD 3 ∧ z1 = (cmdImm w).getLsbD 7 := by
  obtain ⟨o, -, -, hi⟩ := (decode_eq_ok_iff w _).mp h
  obtain rfl : o = .perm2x128 := (op_instrOf o w).symm.trans (congrArg Instr.op hi)
  cases hi
  exact ⟨rfl, rfl⟩

/-- Settles O31: the outcome of a decoded PERM2X128 is EMPTY exactly on a zeroing bit, and no other instruction's is. -/
theorem onlyPerm2x128AnswersEmpty : Obligations.OnlyPerm2x128AnswersEmpty := by
  intro b r
  rw [requestOutcome_empty_iff]
  constructor
  · rintro ⟨i, hd, ho⟩
    obtain ⟨vb, eb, sel0, z0, sel1, z1, rfl⟩ := eq_perm2x128_of_empty ho
    obtain ⟨rfl, rfl⟩ := zeroing_of_decode hd
    exact ⟨_, _, _, _, _, _, hd, perm2x128Outcome_empty_iff.mp ho⟩
  · rintro ⟨vb, eb, sel0, z0, sel1, z1, hd, hzero⟩
    obtain ⟨rfl, rfl⟩ := zeroing_of_decode hd
    exact ⟨_, hd, perm2x128Outcome_empty_iff.mpr hzero⟩

end Sys2Proof.Machine
end

section
/-!
Fault entry (60_exceptions.md R203): what a run without reset keeps once the block is halted.
-/

namespace Sys2Proof.Machine

variable {s t u : State}

theorem SameRecord.trans (h : SameRecord s t) (h' : SameRecord t u) : SameRecord s u := by
  obtain ⟨hh, hc, hi⟩ := h
  obtain ⟨hh', hc', hi'⟩ := h'
  exact ⟨hh'.trans hh, hc'.trans hc, hi'.trans hi⟩

/-- A step of a halted block accepts nothing, and a request presented waits. -/
theorem step_of_halted_accepts_nothing (hs : s.halted = true) (h : step s = .next t) :
    acceptedRequests t.history = acceptedRequests s.history ∧ t.waiting = s.pins.req :=
  step_accepts_nothing h fun ⟨_, hh, _, _⟩ => by simp [hs] at hh

/-- Until reset a halted block keeps its fault record and accepts nothing. -/
theorem RunsWithoutReset.of_halted (h : RunsWithoutReset t u) (ht : t.halted = true) :
    SameRecord t u ∧ acceptedRequests u.history = acceptedRequests t.history := by
  induction h with
  | here t => exact ⟨⟨rfl, rfl, rfl⟩, rfl⟩
  | step hr hstep _ ih =>
    have hrecord := step_of_halted_record ht hr hstep
    obtain ⟨hlater, hnone⟩ := ih (hrecord.1.trans ht)
    exact ⟨hrecord.trans hlater, hnone.trans (step_of_halted_accepts_nothing ht hstep).1⟩

theorem reqReady_of_halted (hs : s.halted = true) (rst : Bool) : s.reqReady rst = false := by
  simp [State.reqReady, hs]

/-- Settles O38: Accept writes the fault record and its response, and every later state up to reset is halted. -/
theorem faultEntryHaltsUntilReset : Obligations.FaultEntryHaltsUntilReset := by
  intro s r c x hr hq hh hv hk ho
  have hanswers := accept_answers s s.pins r
  have hstep := step_of_accept hk hr hq hh hv
  rw [ho] at hanswers hstep
  obtain ⟨-, hstatus, hlen, hcause, hinfo⟩ := hanswers
  refine ⟨_, hstep, hstatus, hlen, hcause, hinfo, rfl, rfl, rfl, rfl, fun u hrun => ?_⟩
  obtain ⟨hrecord, hnone⟩ := hrun.of_halted rfl
  have hu : u.halted = true := hrecord.1
  exact ⟨hrecord, reqReady_of_halted hu, hnone, fun hv => (stuck_iff u).mpr ⟨hu, hv⟩,
    fun v _ h => (step_of_halted_accepts_nothing hu h).2⟩

end Sys2Proof.Machine
end

section
/-!
Reset and the two stops (70_reset_and_hazards.md R241, R247, R250): what a reset step leaves, and exactly where a step
answers no next state.
-/

namespace Sys2Proof.Machine

variable {s t : State} {p : Pins}

/-! ## Where a step answers next -/

/-- Whatever the pins, one of the four transactions describes what they do to the block. -/
theorem exists_moved (s : State) (p : Pins) : ∃ t, Moved s p t := by
  cases hr : p.rst with
  | true => exact ⟨_, .reset hr rfl⟩
  | false =>
    by_cases hd : s.rspv = true ∧ p.rspReady = true
    · exact ⟨_, .deliver hr hd.1 hd.2 rfl⟩
    · by_cases hn : p.req = none ∨ s.halted = true ∨ s.rspv = true
      · exact ⟨_, .idle hr hd hn rfl⟩
      · simp only [not_or, Bool.not_eq_true] at hn
        obtain ⟨hq, hh, hv⟩ := hn
        obtain ⟨r, hq⟩ := Option.ne_none_iff_exists'.mp hq
        exact ⟨_, .accept r hr hh hv hq rfl⟩

/-- The converse of `transaction_cases`: with the request kept, only waiting for ever without reset stops a move. -/
theorem transaction_of_moved (hk : keepsRequest s.waiting p.req = true)
    (hw : p.rst = false → s.waitsForEver p = false) (h : Moved s p t) : s.transaction p = .next t := by
  cases h with
  | reset hr ht => rw [ht, transaction_of_reset hk hr]
  | deliver hr hv hp ht => rw [ht, transaction_of_deliver hk hr hv hp]
  | accept r hr hh hv hq ht => rw [ht, transaction_of_accept hk hr hq hh hv]
  | idle hr hd hn ht => rw [ht, transaction_of_idle hk hr hd hn (hw hr)]

/-- Settles O42: with the request kept and no wait for ever, a transaction describes the step, so it answers next. -/
theorem stepStopsOnlyWhereTheSpecSaysSo : Obligations.StepStopsOnlyWhereTheSpecSaysSo := by
  intro s
  cases hk : keepsRequest s.waiting s.pins.req with
  | false => simp [step_of_unstable hk, eq_comm (a := Refusal.unstableRequest)]
  | true =>
    by_cases hstuck : s.pins.rst = false ∧ s.waitsForEver s.pins = true
    · obtain ⟨hr, hw⟩ := hstuck
      simp [step_of_stuck hk hr hw, hr, hw]
    · obtain ⟨t, hm⟩ := exists_moved s s.pins
      have hstep : step s = .next t :=
        transaction_of_moved hk (fun hr => Bool.eq_false_iff.mpr fun hw => hstuck ⟨hr, hw⟩) hm
      simp [hstep, hstuck]

/-! ## The request that waits -/

/-- Settles O43: a request presented to a channel that is not ready waits, and a waiting request must be kept. -/
theorem waitingRequestMustBeKept : Obligations.WaitingRequestMustBeKept := by
  intro s t r h hq hready hchanged
  have hwaits : t.waiting = some r := by
    rw [← hq]
    refine (step_accepts_nothing h ?_).2
    rintro ⟨hr, hh, hv, -⟩
    simp [State.reqReady, hr, hh, hv] at hready
  exact step_of_unstable (by simpa [hwaits, keepsRequest] using hchanged)

/-! ## Reset -/

/-- Settles O40: the step is Reset, and the record it clears is one in which Accept is enabled. -/
theorem resetStepClearsTheRecord : Obligations.ResetStepClearsTheRecord := by
  intro s hr hk
  refine ⟨_, step_of_reset hk hr, rfl, rfl, rfl, rfl, sts_of_cleared rfl rfl rfl rfl, rfl, rfl, rfl, rfl,
    fun r hq hr' hq' => ?_⟩
  have hk' : keepsRequest s.pins.req ((s.sample s.pins).resetBlock).pins.req = true := by
    rw [hq, hq']
    exact beq_self_eq_true _
  exact ⟨_, step_of_accept hk' hr' hq' rfl rfl, respond_history _ _⟩

end Sys2Proof.Machine
end

section
/-!
The clocked block (70_reset_and_hazards.md R248, R249): an edge is the step of the pins the block sees, and the count of
cycles since the last accepting edge bounds when a response can come.
-/

namespace Sys2Proof.Machine

variable {c d : Clocked}

/-! ## An edge is a step -/

/-- The clocked block's state with the pins it sees at the coming edge in place of the pins driven. -/
def Clocked.seenState (c : Clocked) : State := { c.st with inputs := c.seen c.st.pins :: c.st.inputs.tail }

/-- No transaction reads which pins stand first in the list to come. -/
theorem Moved.seenState {p : Pins} {t : State} (h : Moved c.st p t) : Moved c.seenState p t := by
  cases h with
  | reset hr ht => exact .reset hr ht
  | deliver hr hv hp ht => exact .deliver hr hv hp ht
  | accept r hr hh hv hq ht => exact .accept r hr hh hv hq ht
  | idle hr hd hn ht => exact .idle hr hd hn ht

/-- An edge that answers next is the step of what the block sees. -/
theorem edge_is_step (h : c.edge = .next d) : step c.seenState = .next d.st := by
  obtain ⟨hk, hm, -⟩ := edge_cases h
  exact transaction_of_moved (s := c.seenState) hk (fun _ => by simp [State.waitsForEver, Clocked.seenState]) hm.seenState

/-- Settles O57: the state the step starts from is the one with the pins the block sees. -/
theorem clockedEdgeIsTheStepOfWhatTheBlockSees : Obligations.ClockedEdgeIsTheStepOfWhatTheBlockSees :=
  fun _ _ => edge_is_step

/-! ## The signals -/

theorem lat_pos : 1 ≤ Config.lat := Nat.succ_pos _

theorem reqReady_iff (s : State) (rst : Bool) :
    s.reqReady rst = true ↔ rst = false ∧ s.halted = false ∧ s.rspv = false := by
  simp [State.reqReady, and_assoc]

theorem reqReady_of_rspv {s : State} (hv : s.rspv = true) (rst : Bool) : s.reqReady rst = false := by
  simp [State.reqReady, hv]

theorem rspValid_iff (c : Clocked) (rst : Bool) :
    c.rspValid rst = true ↔ rst = false ∧ c.st.rspv = true ∧ Config.lat ≤ c.age := by
  simp [Clocked.rspValid, State.rspOffered, and_assoc]

theorem seen_rspReady_iff (c : Clocked) (p : Pins) :
    (c.seen p).rspReady = true ↔ p.rspReady = true ∧ c.rspValid p.rst = true := by
  simp [Clocked.seen]

theorem accepts_of_rspv {p : Pins} (hv : c.st.rspv = true) : c.accepts p = false := by
  simp [Clocked.accepts, reqReady_of_rspv hv]

/-! ## One edge -/

/-- Deliver at an edge (R249). -/
theorem edge_of_deliver (hk : keepsRequest c.st.waiting c.st.pins.req = true)
    (hvalid : c.rspValid c.st.pins.rst = true) (hready : c.st.pins.rspReady = true) :
    c.edge = .next { st := (c.st.sample (c.seen c.st.pins)).deliver, age := c.age + 1 } := by
  obtain ⟨hr, hv, -⟩ := (rspValid_iff c _).mp hvalid
  have hdeliver := transaction_of_deliver (p := c.seen c.st.pins) hk hr hv ((seen_rspReady_iff c _).mpr ⟨hready, hvalid⟩)
  rw [edge_of_transaction hdeliver, accepts_of_rspv hv, if_neg Bool.false_ne_true]

/-- An edge where no response is both valid and taken delivers nothing. -/
theorem edge_delivers_nothing (h : c.edge = .next d)
    (hn : ¬ (c.rspValid c.st.pins.rst = true ∧ c.st.pins.rspReady = true)) :
    answeredRequests d.st.history = answeredRequests c.st.history := by
  refine step_delivers_nothing (s := c.seenState) (edge_is_step h) ?_
  rintro ⟨-, -, hp⟩
  exact hn ((seen_rspReady_iff c _).mp hp).symm

/-- An edge where no request is both presented and let in accepts nothing. -/
theorem edge_accepts_nothing (h : c.edge = .next d)
    (hn : ¬ (c.st.pins.req ≠ none ∧ c.st.reqReady c.st.pins.rst = true)) :
    acceptedRequests d.st.history = acceptedRequests c.st.history := by
  refine (step_accepts_nothing (s := c.seenState) (edge_is_step h) ?_).1
  rintro ⟨hr, hh, hv, hq⟩
  exact hn ⟨hq, (reqReady_iff c.st _).mpr ⟨hr, hh, hv⟩⟩

/-- A held response stays held at an edge that neither resets nor delivers it. -/
theorem edge_keeps_rspv (h : c.edge = .next d) (hv : c.st.rspv = true) (hr : c.st.pins.rst = false)
    (hn : ¬ (c.rspValid c.st.pins.rst = true ∧ c.st.pins.rspReady = true)) : d.st.rspv = true := by
  cases (edge_cases h).2.1 with
  | reset hr' _ => exact absurd hr' (Bool.eq_false_iff.mp hr)
  | deliver _ _ hp _ => exact absurd ((seen_rspReady_iff c _).mp hp).symm hn
  | accept _ _ _ hv' _ _ => simp [hv] at hv'
  | idle _ _ _ ht => rw [ht]; exact hv

/-- Settles O53: an edge delivers where `rsp_valid` and `rsp_ready` are both 1 and nowhere else, and the count starts
again where Accept happens. -/
theorem clockedResponseWaitsForItsLatency : Obligations.ClockedResponseWaitsForItsLatency := by
  refine ⟨lat_pos, fun c hk => ⟨fun hvalid hready => ?_, fun hn d h => edge_delivers_nothing h hn, fun ha => ?_,
    fun ha d h => ?_⟩⟩
  · obtain ⟨-, -, hage⟩ := (rspValid_iff c _).mp hvalid
    exact ⟨hage, _, edge_of_deliver hk hvalid hready, rfl, rfl⟩
  · obtain ⟨r, hq⟩ := Option.isSome_iff_exists.mp (accepts_iff.mp ha).1
    exact ⟨_, edge_of_accept hk ha hq, respond_rspv _ _, rfl⟩
  · obtain ⟨-, -, hage⟩ := edge_cases h
    simpa [ha] using hage

/-- Settles O55: the signals read the record, Accept happens where both request signals are 1, and a held response keeps
`req_ready` at 0. -/
theorem clockedAcceptHappensAtAReadyEdge : Obligations.ClockedAcceptHappensAtAReadyEdge := by
  refine fun c => ⟨fun rst => ⟨reqReady_iff c.st rst, rspValid_iff c rst⟩, fun r hk hq hready => ?_,
    fun d h => ⟨edge_accepts_nothing h, fun hv hr hn => reqReady_of_rspv (edge_keeps_rspv h hv hr hn)⟩⟩
  have ha : c.accepts c.st.pins = true := accepts_iff.mpr ⟨by simp [hq], (reqReady_iff c.st _).mp hready⟩
  obtain ⟨-, hcurrent, -, -, hhistory⟩ :=
    respond_frame ((c.st.sample (c.seen c.st.pins)).latch r) (requestOutcome c.st.build r)
  exact ⟨_, edge_of_accept hk ha hq, respond_rspv _ _, accept_answers c.st _ r, hcurrent, hhistory, rfl,
    reqReady_of_rspv (respond_rspv _ _)⟩

/-! ## Edges before the latency is over -/

/-- No edge makes the count go up by more than one. -/
theorem edge_age_le (h : c.edge = .next d) : d.age ≤ c.age + 1 := by
  obtain ⟨-, -, hage⟩ := edge_cases h
  split at hage <;> omega

/-- While the count is short of `LAT` nothing is delivered, whatever is driven. -/
theorem edges_deliver_nothing {k : Nat} (h : Clocked.edges k c = .next d) (hage : c.age + k ≤ Config.lat) :
    answeredRequests d.st.history = answeredRequests c.st.history := by
  induction k generalizing c with
  | zero => cases h; rfl
  | succ k ih =>
    cases he : c.edge with
    | fault r => simp [Clocked.edges, he] at h
    | refused r => simp [Clocked.edges, he] at h
    | next e =>
      have hcount := edge_age_le he
      have hshort : ¬ (c.rspValid c.st.pins.rst = true ∧ c.st.pins.rspReady = true) := by
        rintro ⟨hvalid, -⟩
        obtain ⟨-, -, hlat⟩ := (rspValid_iff c _).mp hvalid
        omega
      have hrest : Clocked.edges k e = .next d := by simpa [Clocked.edges, he] using h
      rw [ih hrest (by omega), edge_delivers_nothing he hshort]

/-- Settles O56: the accepting edge sets the count to 1, so at each of the `LAT - 1` edges after it the count is below `LAT`. -/
theorem clockedBlockNeverAnswersBeforeLat : Obligations.ClockedBlockNeverAnswersBeforeLat := by
  intro c hk ha k hlat d h
  obtain ⟨r, hq⟩ := Option.isSome_iff_exists.mp (accepts_iff.mp ha).1
  simp only [Clocked.edges, edge_of_accept hk ha hq] at h
  rw [edges_deliver_nothing h (by simp only; omega), respond_history]
  rfl

theorem edges_one (h : c.edge = .next d) : Clocked.edges 1 c = .next d := by
  simp only [Clocked.edges, h]

/-! ## A caller ready for its response -/

/-- What a caller drives that is ready for a response and presents nothing, reset not asserted. -/
def Pins.taking : Pins := { rst := false, req := none, rspReady := true }

theorem pins_of_cons {s : State} {p : Pins} {ps : List Pins} (h : s.inputs = p :: ps) : s.pins = p := by
  simp [State.pins, h]

/-- The clocked block `k` edges later, when all they did was use up the pins before `rest`. -/
def Clocked.waited (c : Clocked) (k : Nat) (rest : List Pins) : Clocked :=
  { st := { c.st with inputs := rest }, age := c.age + k }

theorem waited_zero (c : Clocked) : c.waited 0 c.st.inputs = c := rfl

theorem waited_waited (c : Clocked) (j k : Nat) (ps rest : List Pins) :
    (c.waited j ps).waited k rest = c.waited (j + k) rest := by
  simp [Clocked.waited, Nat.add_assoc]

/-- At an edge before `LAT` a ready caller waits. -/
theorem edge_of_taking_early {rest : List Pins} (hi : c.st.inputs = .taking :: rest) (hw : c.st.waiting = none)
    (hv : c.st.rspv = true) (hage : c.age < Config.lat) : c.edge = .next (c.waited 1 rest) := by
  have hp := pins_of_cons hi
  have hshort : ¬ (c.st.rspv = true ∧ (c.seen c.st.pins).rspReady = true) := by
    rintro ⟨-, hready⟩
    obtain ⟨-, -, hlat⟩ := (rspValid_iff c _).mp ((seen_rspReady_iff c _).mp hready).2
    omega
  have hidle : c.st.transaction (c.seen c.st.pins) = .next (c.st.sample (c.seen c.st.pins)) :=
    transaction_of_idle (by rw [hw]; rfl) (by rw [hp]; rfl) hshort (.inr (.inr hv)) (by simp [State.waitsForEver, hv])
  have hsample : c.st.sample (c.seen c.st.pins) = { c.st with inputs := rest } := by
    simp [State.sample, Clocked.seen, hp, hi, hw, Pins.taking]
  rw [edge_of_transaction hidle, accepts_of_rspv hv, if_neg Bool.false_ne_true, hsample, Clocked.waited]

/-- Until the count reaches `LAT` a ready caller waits. -/
theorem edges_of_taking_early {k : Nat} {rest : List Pins} (hi : c.st.inputs = List.replicate k .taking ++ rest)
    (hw : c.st.waiting = none) (hv : c.st.rspv = true) (hage : c.age + k ≤ Config.lat) :
    Clocked.edges k c = .next (c.waited k rest) := by
  induction k generalizing c with
  | zero =>
    obtain rfl : c.st.inputs = rest := hi
    rw [waited_zero, Clocked.edges]
  | succ k ih =>
    have hcount : (c.waited 1 (List.replicate k .taking ++ rest)).age + k ≤ Config.lat := by
      simp only [Clocked.waited]; omega
    have hfirst := edge_of_taking_early (rest := List.replicate k .taking ++ rest) hi hw hv (by omega)
    have hrest := ih (c := c.waited 1 (List.replicate k .taking ++ rest)) rfl hw hv hcount
    rw [waited_waited, Nat.add_comm 1 k] at hrest
    simp only [Clocked.edges, hfirst, hrest]

/-- Once the count has reached `LAT`, an edge hands a ready caller its response. -/
theorem edge_of_taking_at_lat {rest : List Pins} (hi : c.st.inputs = .taking :: rest) (hw : c.st.waiting = none)
    (hv : c.st.rspv = true) (hage : Config.lat ≤ c.age) :
    c.edge = .next { st := (c.st.sample (c.seen c.st.pins)).deliver, age := c.age + 1 } := by
  have hp := pins_of_cons hi
  refine edge_of_deliver (by rw [hw]; rfl) ?_ (by rw [hp]; rfl)
  rw [hp]
  exact (rspValid_iff c _).mpr ⟨rfl, hv, hage⟩

/-- The clocked block after the edge that accepts request `r`. -/
def Clocked.accepted (c : Clocked) (r : Request) : Clocked :=
  { st := ((c.st.sample (c.seen c.st.pins)).latch r).respond (requestOutcome c.st.build r), age := 1 }

/-- What the accepting edge leaves for the edges after it: the response held, no request waiting, the pins that follow. -/
theorem accepted_frame (c : Clocked) (r : Request) :
    (c.accepted r).st.rspv = true ∧ (c.accepted r).st.waiting = none ∧ (c.accepted r).st.inputs = c.st.inputs.tail ∧
      (c.accepted r).st.current = r ∧ (c.accepted r).st.history = .accepted r :: c.st.history := by
  obtain ⟨-, hcurrent, hwaiting, hinputs, hhistory⟩ :=
    respond_frame ((c.st.sample (c.seen c.st.pins)).latch r) (requestOutcome c.st.build r)
  exact ⟨respond_rspv _ _, hwaiting, hinputs, hcurrent, hhistory⟩

/-- Fewer than `LAT` edges after the accepting one, a ready caller has done nothing but wait. -/
theorem edges_of_accept_taking {r : Request} {k : Nat} {rest : List Pins}
    (hk : keepsRequest c.st.waiting c.st.pins.req = true) (ha : c.accepts c.st.pins = true)
    (hq : c.st.pins.req = some r) (hi : c.st.inputs.tail = List.replicate k .taking ++ rest) (hlat : k < Config.lat) :
    Clocked.edges (k + 1) c = .next ((c.accepted r).waited k rest) := by
  obtain ⟨hv, hw, hinputs, -, -⟩ := accepted_frame c r
  have hedge : c.edge = .next (c.accepted r) := edge_of_accept hk ha hq
  have hcount : (c.accepted r).age + k ≤ Config.lat := by simp only [Clocked.accepted]; omega
  simp only [Clocked.edges, hedge, edges_of_taking_early (hinputs.trans hi) hw hv hcount]

/-- Settles O54: the accepting edge leaves the count at 1, so the ready caller waits `LAT - 1` edges with the response
held and takes it at the next. -/
theorem clockedResponseComesAfterLatEdges : Obligations.ClockedResponseComesAfterLatEdges := by
  intro c p r rest hi hq hk ha
  obtain rfl := pins_of_cons hi
  obtain ⟨hv, hw, -, hcurrent, hhistory⟩ := accepted_frame c r
  have htail : ∀ k ≤ Config.lat,
      c.st.inputs.tail = List.replicate k .taking ++ (List.replicate (Config.lat - k) .taking ++ rest) := by
    intro k hle
    rw [← List.append_assoc, List.replicate_append_replicate, Nat.add_sub_cancel' hle, hi]
    rfl
  have hwait : ∀ k < Config.lat, Clocked.edges (k + 1) c =
      .next ((c.accepted r).waited k (List.replicate (Config.lat - k) .taking ++ rest)) :=
    fun k hlt => edges_of_accept_taking hk ha hq (htail k hlt.le) hlt
  refine ⟨?_, fun k hlt => ⟨_, hwait k hlt, hv, hhistory⟩⟩
  have hlat := lat_pos
  have hlast := hwait (Config.lat - 1) (by omega)
  rw [Nat.sub_sub_self hlat, Nat.sub_add_cancel hlat] at hlast
  have htake := edge_of_taking_at_lat (c := (c.accepted r).waited (Config.lat - 1) (.taking :: rest)) rfl hw hv
    (by simp only [Clocked.waited, Clocked.accepted]; omega)
  have htaken := (edges_add 1 hlast).trans (edges_one htake)
  exact ⟨_, (c.accepted r).st.rsp, htaken, rfl, rfl, by simp [Clocked.waited, hcurrent, hhistory],
    accept_answers c.st _ r⟩

end Sys2Proof.Machine
end
